-- ==== Sys2Proof/Word.lean ====
section
/-!
DEFINITION. The words of the CPU: bytes, 16-bit addresses and bit numbers (R7, R9).
-/

namespace Sys2Proof

/-- An 8-bit quantity: the addressable unit and the width of A, X, Y, S and PS (R7). -/
abbrev Byte := BitVec 8

/-- A 16-bit address, the width of PC (R7). -/
abbrev Addr := BitVec 16

/-- A bit number `i`, bits 7 to 5 of a bit-field operation code, 0 to 7 (R108). -/
abbrev BitNo := BitVec 3

end Sys2Proof
end

