-- ==== Sys2Proof/Syntax.lean ====
section
/-!
DEFINITION. The instructions: one constructor for every row of spec/opcode_table.json, that is one per
mnemonic and addressing mode (R117, R150), with the operand bytes as its arguments (R104 to R108).
`Instr.view` gives each its mnemonic and its addressing mode.
-/

namespace Sys2Proof

/-- The addressing modes that yield the address of a data byte (R132 to R137, R140, R141). Absolute also
gives the destination of JMP and JSR (R135). -/
inductive MemMode where
  | zp (zz : Byte)
  | zpX (zz : Byte)
  | zpY (zz : Byte)
  | abs (hhll : Addr)
  | absX (hhll : Addr)
  | absY (hhll : Addr)
  | indX (zz : Byte)
  | indY (zz : Byte)
deriving DecidableEq, Repr

/-- What `Operand()` reads: immediate data or a memory byte (R131, R151). -/
inductive Src where
  | imm (nn : Byte)
  | mem (m : MemMode)
deriving DecidableEq, Repr

/-- What a read-modify-write instruction works on: the accumulator or a memory byte (R138, R151). -/
inductive Loc where
  | acc
  | mem (m : MemMode)
deriving DecidableEq, Repr

/-- An addressing mode with its operand fields: the 19 modes of R131 to R149, and the immediate-to-memory
form of LDM (R101). -/
inductive Form where
  | implied
  | acc
  | accBit (i : BitNo)
  | imm (nn : Byte)
  | mem (m : MemMode)
  | indAbs (hhll : Addr)
  | zpInd (zz : Byte)
  | special (ll : Byte)
  | rel (rr : Byte)
  | zpBit (i : BitNo) (zz : Byte)
  | accBitRel (i : BitNo) (rr : Byte)
  | zpBitRel (i : BitNo) (zz rr : Byte)
  | immZp (nn zz : Byte)
deriving DecidableEq, Repr

/-- The form of an instruction whose operand is `Operand()`. -/
def Form.ofSrc : Src → Form
  | .imm nn => .imm nn
  | .mem m => .mem m

/-- The form of a read-modify-write instruction. -/
def Form.ofLoc : Loc → Form
  | .acc => .acc
  | .mem m => .mem m

/-- The length in bytes of an instruction with a memory operand (R101). -/
def MemMode.len : MemMode → Nat
  | .zp _ | .zpX _ | .zpY _ | .indX _ | .indY _ => 2
  | .abs _ | .absX _ | .absY _ => 3

/-- The length in bytes of an instruction that reads `Operand()` (R101). -/
def Src.len : Src → Nat
  | .imm _ => 2
  | .mem m => m.len

/-- The length in bytes of a read-modify-write instruction (R101). -/
def Loc.len : Loc → Nat
  | .acc => 1
  | .mem m => m.len

/-- The length in bytes of an instruction by its addressing mode (R101). -/
def Form.len : Form → Nat
  | .implied | .acc | .accBit _ => 1
  | .imm _ | .zpInd _ | .special _ | .rel _ | .zpBit _ _ | .accBitRel _ _ => 2
  | .mem m => m.len
  | .indAbs _ | .zpBitRel _ _ _ | .immZp _ _ => 3

/-- The 71 mnemonics (R1, R7). -/
inductive Mnemonic where
  | adc | and | asl | bbc | bbs | bcc | bcs | beq | bit | bmi | bne | bpl | bra | brk | bvc | bvs
  | clb | clc | cld | cli | clt | clv | cmp | com | cpx | cpy | dec | dex | dey | div | eor | inc
  | inx | iny | jmp | jsr | lda | ldm | ldx | ldy | lsr | mul | nop | ora | pha | php | pla | plp
  | rol | ror | rrf | rti | rts | sbc | seb | sec | sed | sei | set | sta | stp | stx | sty | tax
  | tay | tst | tsx | txa | txs | tya | wit
deriving DecidableEq, Repr

/-- The instructions. Each constructor's comment is the statement form of the table's row (R115). -/
inductive Instr where
  | adcIndX (zz : Byte)  -- ADC ($zz,X)
  | adcZp (zz : Byte)  -- ADC $zz
  | adcImm (nn : Byte)  -- ADC #$nn
  | adcAbs (hhll : Addr)  -- ADC $hhll
  | adcIndY (zz : Byte)  -- ADC ($zz),Y
  | adcZpX (zz : Byte)  -- ADC $zz,X
  | adcAbsY (hhll : Addr)  -- ADC $hhll,Y
  | adcAbsX (hhll : Addr)  -- ADC $hhll,X
  | andIndX (zz : Byte)  -- AND ($zz,X)
  | andZp (zz : Byte)  -- AND $zz
  | andImm (nn : Byte)  -- AND #$nn
  | andAbs (hhll : Addr)  -- AND $hhll
  | andIndY (zz : Byte)  -- AND ($zz),Y
  | andZpX (zz : Byte)  -- AND $zz,X
  | andAbsY (hhll : Addr)  -- AND $hhll,Y
  | andAbsX (hhll : Addr)  -- AND $hhll,X
  | aslZp (zz : Byte)  -- ASL $zz
  | aslAcc  -- ASL A
  | aslAbs (hhll : Addr)  -- ASL $hhll
  | aslZpX (zz : Byte)  -- ASL $zz,X
  | aslAbsX (hhll : Addr)  -- ASL $hhll,X
  | bbcAcc (i : BitNo) (rr : Byte)  -- BBC i,A,$hhll
  | bbcZp (i : BitNo) (zz : Byte) (rr : Byte)  -- BBC i,$zz,$hhll
  | bbsAcc (i : BitNo) (rr : Byte)  -- BBS i,A,$hhll
  | bbsZp (i : BitNo) (zz : Byte) (rr : Byte)  -- BBS i,$zz,$hhll
  | bcc (rr : Byte)  -- BCC $hhll
  | bcs (rr : Byte)  -- BCS $hhll
  | beq (rr : Byte)  -- BEQ $hhll
  | bitZp (zz : Byte)  -- BIT $zz
  | bitAbs (hhll : Addr)  -- BIT $hhll
  | bmi (rr : Byte)  -- BMI $hhll
  | bne (rr : Byte)  -- BNE $hhll
  | bpl (rr : Byte)  -- BPL $hhll
  | bra (rr : Byte)  -- BRA $hhll
  | brk  -- BRK
  | bvc (rr : Byte)  -- BVC $hhll
  | bvs (rr : Byte)  -- BVS $hhll
  | clbAcc (i : BitNo)  -- CLB i,A
  | clbZp (i : BitNo) (zz : Byte)  -- CLB i,$zz
  | clc  -- CLC
  | cld  -- CLD
  | cli  -- CLI
  | clt  -- CLT
  | clv  -- CLV
  | cmpIndX (zz : Byte)  -- CMP ($zz,X)
  | cmpZp (zz : Byte)  -- CMP $zz
  | cmpImm (nn : Byte)  -- CMP #$nn
  | cmpAbs (hhll : Addr)  -- CMP $hhll
  | cmpIndY (zz : Byte)  -- CMP ($zz),Y
  | cmpZpX (zz : Byte)  -- CMP $zz,X
  | cmpAbsY (hhll : Addr)  -- CMP $hhll,Y
  | cmpAbsX (hhll : Addr)  -- CMP $hhll,X
  | com (zz : Byte)  -- COM $zz
  | cpxImm (nn : Byte)  -- CPX #$nn
  | cpxZp (zz : Byte)  -- CPX $zz
  | cpxAbs (hhll : Addr)  -- CPX $hhll
  | cpyImm (nn : Byte)  -- CPY #$nn
  | cpyZp (zz : Byte)  -- CPY $zz
  | cpyAbs (hhll : Addr)  -- CPY $hhll
  | decAcc  -- DEC A
  | decZp (zz : Byte)  -- DEC $zz
  | decAbs (hhll : Addr)  -- DEC $hhll
  | decZpX (zz : Byte)  -- DEC $zz,X
  | decAbsX (hhll : Addr)  -- DEC $hhll,X
  | dex  -- DEX
  | dey  -- DEY
  | div (zz : Byte)  -- DIV $zz,X
  | eorIndX (zz : Byte)  -- EOR ($zz,X)
  | eorZp (zz : Byte)  -- EOR $zz
  | eorImm (nn : Byte)  -- EOR #$nn
  | eorAbs (hhll : Addr)  -- EOR $hhll
  | eorIndY (zz : Byte)  -- EOR ($zz),Y
  | eorZpX (zz : Byte)  -- EOR $zz,X
  | eorAbsY (hhll : Addr)  -- EOR $hhll,Y
  | eorAbsX (hhll : Addr)  -- EOR $hhll,X
  | incAcc  -- INC A
  | incZp (zz : Byte)  -- INC $zz
  | incAbs (hhll : Addr)  -- INC $hhll
  | incZpX (zz : Byte)  -- INC $zz,X
  | incAbsX (hhll : Addr)  -- INC $hhll,X
  | inx  -- INX
  | iny  -- INY
  | jmpAbs (hhll : Addr)  -- JMP $hhll
  | jmpInd (hhll : Addr)  -- JMP ($hhll)
  | jmpZpInd (zz : Byte)  -- JMP ($zz)
  | jsrZpInd (zz : Byte)  -- JSR ($zz)
  | jsrAbs (hhll : Addr)  -- JSR $hhll
  | jsrSp (ll : Byte)  -- JSR \$hhll
  | ldaIndX (zz : Byte)  -- LDA ($zz,X)
  | ldaZp (zz : Byte)  -- LDA $zz
  | ldaImm (nn : Byte)  -- LDA #$nn
  | ldaAbs (hhll : Addr)  -- LDA $hhll
  | ldaIndY (zz : Byte)  -- LDA ($zz),Y
  | ldaZpX (zz : Byte)  -- LDA $zz,X
  | ldaAbsY (hhll : Addr)  -- LDA $hhll,Y
  | ldaAbsX (hhll : Addr)  -- LDA $hhll,X
  | ldm (nn : Byte) (zz : Byte)  -- LDM #$nn,$zz
  | ldxImm (nn : Byte)  -- LDX #$nn
  | ldxZp (zz : Byte)  -- LDX $zz
  | ldxAbs (hhll : Addr)  -- LDX $hhll
  | ldxZpY (zz : Byte)  -- LDX $zz,Y
  | ldxAbsY (hhll : Addr)  -- LDX $hhll,Y
  | ldyImm (nn : Byte)  -- LDY #$nn
  | ldyZp (zz : Byte)  -- LDY $zz
  | ldyAbs (hhll : Addr)  -- LDY $hhll
  | ldyZpX (zz : Byte)  -- LDY $zz,X
  | ldyAbsX (hhll : Addr)  -- LDY $hhll,X
  | lsrZp (zz : Byte)  -- LSR $zz
  | lsrAcc  -- LSR A
  | lsrAbs (hhll : Addr)  -- LSR $hhll
  | lsrZpX (zz : Byte)  -- LSR $zz,X
  | lsrAbsX (hhll : Addr)  -- LSR $hhll,X
  | mul (zz : Byte)  -- MUL $zz,X
  | nop  -- NOP
  | oraIndX (zz : Byte)  -- ORA ($zz,X)
  | oraZp (zz : Byte)  -- ORA $zz
  | oraImm (nn : Byte)  -- ORA #$nn
  | oraAbs (hhll : Addr)  -- ORA $hhll
  | oraIndY (zz : Byte)  -- ORA ($zz),Y
  | oraZpX (zz : Byte)  -- ORA $zz,X
  | oraAbsY (hhll : Addr)  -- ORA $hhll,Y
  | oraAbsX (hhll : Addr)  -- ORA $hhll,X
  | pha  -- PHA
  | php  -- PHP
  | pla  -- PLA
  | plp  -- PLP
  | rolZp (zz : Byte)  -- ROL $zz
  | rolAcc  -- ROL A
  | rolAbs (hhll : Addr)  -- ROL $hhll
  | rolZpX (zz : Byte)  -- ROL $zz,X
  | rolAbsX (hhll : Addr)  -- ROL $hhll,X
  | rorZp (zz : Byte)  -- ROR $zz
  | rorAcc  -- ROR A
  | rorAbs (hhll : Addr)  -- ROR $hhll
  | rorZpX (zz : Byte)  -- ROR $zz,X
  | rorAbsX (hhll : Addr)  -- ROR $hhll,X
  | rrf (zz : Byte)  -- RRF $zz
  | rti  -- RTI
  | rts  -- RTS
  | sbcIndX (zz : Byte)  -- SBC ($zz,X)
  | sbcZp (zz : Byte)  -- SBC $zz
  | sbcImm (nn : Byte)  -- SBC #$nn
  | sbcAbs (hhll : Addr)  -- SBC $hhll
  | sbcIndY (zz : Byte)  -- SBC ($zz),Y
  | sbcZpX (zz : Byte)  -- SBC $zz,X
  | sbcAbsY (hhll : Addr)  -- SBC $hhll,Y
  | sbcAbsX (hhll : Addr)  -- SBC $hhll,X
  | sebAcc (i : BitNo)  -- SEB i,A
  | sebZp (i : BitNo) (zz : Byte)  -- SEB i,$zz
  | sec  -- SEC
  | sed  -- SED
  | sei  -- SEI
  | set  -- SET
  | staIndX (zz : Byte)  -- STA ($zz,X)
  | staZp (zz : Byte)  -- STA $zz
  | staAbs (hhll : Addr)  -- STA $hhll
  | staIndY (zz : Byte)  -- STA ($zz),Y
  | staZpX (zz : Byte)  -- STA $zz,X
  | staAbsY (hhll : Addr)  -- STA $hhll,Y
  | staAbsX (hhll : Addr)  -- STA $hhll,X
  | stp  -- STP
  | stxZp (zz : Byte)  -- STX $zz
  | stxAbs (hhll : Addr)  -- STX $hhll
  | stxZpY (zz : Byte)  -- STX $zz,Y
  | styZp (zz : Byte)  -- STY $zz
  | styAbs (hhll : Addr)  -- STY $hhll
  | styZpX (zz : Byte)  -- STY $zz,X
  | tax  -- TAX
  | tay  -- TAY
  | tst (zz : Byte)  -- TST $zz
  | tsx  -- TSX
  | txa  -- TXA
  | txs  -- TXS
  | tya  -- TYA
  | wit  -- WIT
deriving DecidableEq, Repr

/-- The mnemonic and the addressing mode of every instruction (R111, R150). -/
def Instr.view : Instr → Mnemonic × Form
  | .adcIndX zz => (.adc, .mem (.indX zz))
  | .adcZp zz => (.adc, .mem (.zp zz))
  | .adcImm nn => (.adc, .imm nn)
  | .adcAbs hhll => (.adc, .mem (.abs hhll))
  | .adcIndY zz => (.adc, .mem (.indY zz))
  | .adcZpX zz => (.adc, .mem (.zpX zz))
  | .adcAbsY hhll => (.adc, .mem (.absY hhll))
  | .adcAbsX hhll => (.adc, .mem (.absX hhll))
  | .andIndX zz => (.and, .mem (.indX zz))
  | .andZp zz => (.and, .mem (.zp zz))
  | .andImm nn => (.and, .imm nn)
  | .andAbs hhll => (.and, .mem (.abs hhll))
  | .andIndY zz => (.and, .mem (.indY zz))
  | .andZpX zz => (.and, .mem (.zpX zz))
  | .andAbsY hhll => (.and, .mem (.absY hhll))
  | .andAbsX hhll => (.and, .mem (.absX hhll))
  | .aslZp zz => (.asl, .mem (.zp zz))
  | .aslAcc => (.asl, .acc)
  | .aslAbs hhll => (.asl, .mem (.abs hhll))
  | .aslZpX zz => (.asl, .mem (.zpX zz))
  | .aslAbsX hhll => (.asl, .mem (.absX hhll))
  | .bbcAcc i rr => (.bbc, .accBitRel i rr)
  | .bbcZp i zz rr => (.bbc, .zpBitRel i zz rr)
  | .bbsAcc i rr => (.bbs, .accBitRel i rr)
  | .bbsZp i zz rr => (.bbs, .zpBitRel i zz rr)
  | .bcc rr => (.bcc, .rel rr)
  | .bcs rr => (.bcs, .rel rr)
  | .beq rr => (.beq, .rel rr)
  | .bitZp zz => (.bit, .mem (.zp zz))
  | .bitAbs hhll => (.bit, .mem (.abs hhll))
  | .bmi rr => (.bmi, .rel rr)
  | .bne rr => (.bne, .rel rr)
  | .bpl rr => (.bpl, .rel rr)
  | .bra rr => (.bra, .rel rr)
  | .brk => (.brk, .implied)
  | .bvc rr => (.bvc, .rel rr)
  | .bvs rr => (.bvs, .rel rr)
  | .clbAcc i => (.clb, .accBit i)
  | .clbZp i zz => (.clb, .zpBit i zz)
  | .clc => (.clc, .implied)
  | .cld => (.cld, .implied)
  | .cli => (.cli, .implied)
  | .clt => (.clt, .implied)
  | .clv => (.clv, .implied)
  | .cmpIndX zz => (.cmp, .mem (.indX zz))
  | .cmpZp zz => (.cmp, .mem (.zp zz))
  | .cmpImm nn => (.cmp, .imm nn)
  | .cmpAbs hhll => (.cmp, .mem (.abs hhll))
  | .cmpIndY zz => (.cmp, .mem (.indY zz))
  | .cmpZpX zz => (.cmp, .mem (.zpX zz))
  | .cmpAbsY hhll => (.cmp, .mem (.absY hhll))
  | .cmpAbsX hhll => (.cmp, .mem (.absX hhll))
  | .com zz => (.com, .mem (.zp zz))
  | .cpxImm nn => (.cpx, .imm nn)
  | .cpxZp zz => (.cpx, .mem (.zp zz))
  | .cpxAbs hhll => (.cpx, .mem (.abs hhll))
  | .cpyImm nn => (.cpy, .imm nn)
  | .cpyZp zz => (.cpy, .mem (.zp zz))
  | .cpyAbs hhll => (.cpy, .mem (.abs hhll))
  | .decAcc => (.dec, .acc)
  | .decZp zz => (.dec, .mem (.zp zz))
  | .decAbs hhll => (.dec, .mem (.abs hhll))
  | .decZpX zz => (.dec, .mem (.zpX zz))
  | .decAbsX hhll => (.dec, .mem (.absX hhll))
  | .dex => (.dex, .implied)
  | .dey => (.dey, .implied)
  | .div zz => (.div, .mem (.zpX zz))
  | .eorIndX zz => (.eor, .mem (.indX zz))
  | .eorZp zz => (.eor, .mem (.zp zz))
  | .eorImm nn => (.eor, .imm nn)
  | .eorAbs hhll => (.eor, .mem (.abs hhll))
  | .eorIndY zz => (.eor, .mem (.indY zz))
  | .eorZpX zz => (.eor, .mem (.zpX zz))
  | .eorAbsY hhll => (.eor, .mem (.absY hhll))
  | .eorAbsX hhll => (.eor, .mem (.absX hhll))
  | .incAcc => (.inc, .acc)
  | .incZp zz => (.inc, .mem (.zp zz))
  | .incAbs hhll => (.inc, .mem (.abs hhll))
  | .incZpX zz => (.inc, .mem (.zpX zz))
  | .incAbsX hhll => (.inc, .mem (.absX hhll))
  | .inx => (.inx, .implied)
  | .iny => (.iny, .implied)
  | .jmpAbs hhll => (.jmp, .mem (.abs hhll))
  | .jmpInd hhll => (.jmp, .indAbs hhll)
  | .jmpZpInd zz => (.jmp, .zpInd zz)
  | .jsrZpInd zz => (.jsr, .zpInd zz)
  | .jsrAbs hhll => (.jsr, .mem (.abs hhll))
  | .jsrSp ll => (.jsr, .special ll)
  | .ldaIndX zz => (.lda, .mem (.indX zz))
  | .ldaZp zz => (.lda, .mem (.zp zz))
  | .ldaImm nn => (.lda, .imm nn)
  | .ldaAbs hhll => (.lda, .mem (.abs hhll))
  | .ldaIndY zz => (.lda, .mem (.indY zz))
  | .ldaZpX zz => (.lda, .mem (.zpX zz))
  | .ldaAbsY hhll => (.lda, .mem (.absY hhll))
  | .ldaAbsX hhll => (.lda, .mem (.absX hhll))
  | .ldm nn zz => (.ldm, .immZp nn zz)
  | .ldxImm nn => (.ldx, .imm nn)
  | .ldxZp zz => (.ldx, .mem (.zp zz))
  | .ldxAbs hhll => (.ldx, .mem (.abs hhll))
  | .ldxZpY zz => (.ldx, .mem (.zpY zz))
  | .ldxAbsY hhll => (.ldx, .mem (.absY hhll))
  | .ldyImm nn => (.ldy, .imm nn)
  | .ldyZp zz => (.ldy, .mem (.zp zz))
  | .ldyAbs hhll => (.ldy, .mem (.abs hhll))
  | .ldyZpX zz => (.ldy, .mem (.zpX zz))
  | .ldyAbsX hhll => (.ldy, .mem (.absX hhll))
  | .lsrZp zz => (.lsr, .mem (.zp zz))
  | .lsrAcc => (.lsr, .acc)
  | .lsrAbs hhll => (.lsr, .mem (.abs hhll))
  | .lsrZpX zz => (.lsr, .mem (.zpX zz))
  | .lsrAbsX hhll => (.lsr, .mem (.absX hhll))
  | .mul zz => (.mul, .mem (.zpX zz))
  | .nop => (.nop, .implied)
  | .oraIndX zz => (.ora, .mem (.indX zz))
  | .oraZp zz => (.ora, .mem (.zp zz))
  | .oraImm nn => (.ora, .imm nn)
  | .oraAbs hhll => (.ora, .mem (.abs hhll))
  | .oraIndY zz => (.ora, .mem (.indY zz))
  | .oraZpX zz => (.ora, .mem (.zpX zz))
  | .oraAbsY hhll => (.ora, .mem (.absY hhll))
  | .oraAbsX hhll => (.ora, .mem (.absX hhll))
  | .pha => (.pha, .implied)
  | .php => (.php, .implied)
  | .pla => (.pla, .implied)
  | .plp => (.plp, .implied)
  | .rolZp zz => (.rol, .mem (.zp zz))
  | .rolAcc => (.rol, .acc)
  | .rolAbs hhll => (.rol, .mem (.abs hhll))
  | .rolZpX zz => (.rol, .mem (.zpX zz))
  | .rolAbsX hhll => (.rol, .mem (.absX hhll))
  | .rorZp zz => (.ror, .mem (.zp zz))
  | .rorAcc => (.ror, .acc)
  | .rorAbs hhll => (.ror, .mem (.abs hhll))
  | .rorZpX zz => (.ror, .mem (.zpX zz))
  | .rorAbsX hhll => (.ror, .mem (.absX hhll))
  | .rrf zz => (.rrf, .mem (.zp zz))
  | .rti => (.rti, .implied)
  | .rts => (.rts, .implied)
  | .sbcIndX zz => (.sbc, .mem (.indX zz))
  | .sbcZp zz => (.sbc, .mem (.zp zz))
  | .sbcImm nn => (.sbc, .imm nn)
  | .sbcAbs hhll => (.sbc, .mem (.abs hhll))
  | .sbcIndY zz => (.sbc, .mem (.indY zz))
  | .sbcZpX zz => (.sbc, .mem (.zpX zz))
  | .sbcAbsY hhll => (.sbc, .mem (.absY hhll))
  | .sbcAbsX hhll => (.sbc, .mem (.absX hhll))
  | .sebAcc i => (.seb, .accBit i)
  | .sebZp i zz => (.seb, .zpBit i zz)
  | .sec => (.sec, .implied)
  | .sed => (.sed, .implied)
  | .sei => (.sei, .implied)
  | .set => (.set, .implied)
  | .staIndX zz => (.sta, .mem (.indX zz))
  | .staZp zz => (.sta, .mem (.zp zz))
  | .staAbs hhll => (.sta, .mem (.abs hhll))
  | .staIndY zz => (.sta, .mem (.indY zz))
  | .staZpX zz => (.sta, .mem (.zpX zz))
  | .staAbsY hhll => (.sta, .mem (.absY hhll))
  | .staAbsX hhll => (.sta, .mem (.absX hhll))
  | .stp => (.stp, .implied)
  | .stxZp zz => (.stx, .mem (.zp zz))
  | .stxAbs hhll => (.stx, .mem (.abs hhll))
  | .stxZpY zz => (.stx, .mem (.zpY zz))
  | .styZp zz => (.sty, .mem (.zp zz))
  | .styAbs hhll => (.sty, .mem (.abs hhll))
  | .styZpX zz => (.sty, .mem (.zpX zz))
  | .tax => (.tax, .implied)
  | .tay => (.tay, .implied)
  | .tst zz => (.tst, .mem (.zp zz))
  | .tsx => (.tsx, .implied)
  | .txa => (.txa, .implied)
  | .txs => (.txs, .implied)
  | .tya => (.tya, .implied)
  | .wit => (.wit, .implied)

/-- The mnemonic of an instruction. -/
def Instr.mnemonic (i : Instr) : Mnemonic := i.view.1

/-- The addressing mode of an instruction with its operand fields. -/
def Instr.form (i : Instr) : Form := i.view.2

/-- The byte number of an instruction (R100, R101). -/
def Instr.len (i : Instr) : Nat := i.form.len

end Sys2Proof
end

