-- ==== Sys2Proof/Decode.lean ====
section
/-!
DEFINITION. The decoder, total on any bytes, and the encoder (R100 to R112, R117).

`opTable` is the operation code map: a byte `b` selects the row with `b &&& mask = code`. A byte no row
matches is one of the 25 codes with no instruction assigned, and decoding refuses it (R112).
-/

namespace Sys2Proof

/-- Why bytes are no instruction: the first byte has no instruction assigned (R112), or bytes of the
instruction are missing. -/
inductive DecodeRefusal where
  | undefinedOpcode (op : Byte)
  | truncated
deriving DecidableEq, Repr

/-- The 16-bit value `hi : lo` of two bytes (R11, R72). -/
def joinBytes (hi lo : Byte) : Addr := hi ++ lo

/-- The low-order byte of a 16-bit value (R72). -/
def lowByte (v : Addr) : Byte := v.extractLsb' 0 8

/-- The high-order byte of a 16-bit value (R72). -/
def highByte (v : Addr) : Byte := v.extractLsb' 8 8

/-- What a row of the table makes of the bytes: nothing more to read, one operand byte or two, each with
or without the bit number in bits 7 to 5 of the operation code (R101, R102). -/
inductive Build where
  | one (i : Instr)
  | oneBit (f : BitNo → Instr)
  | two (f : Byte → Instr)
  | twoBit (f : BitNo → Byte → Instr)
  | three (f : Byte → Byte → Instr)
  | threeBit (f : BitNo → Byte → Byte → Instr)

/-- A row of the operation code table (R117). -/
structure OpRow where
  code : Byte
  mask : Byte
  build : Build

/-- The eight bit-field rows, mask 1F (R102). -/
def opTableBits : List OpRow :=
  [ ⟨0x03, 0x1F, .twoBit .bbsAcc⟩,
    ⟨0x07, 0x1F, .threeBit .bbsZp⟩,
    ⟨0x0B, 0x1F, .oneBit .sebAcc⟩,
    ⟨0x0F, 0x1F, .twoBit .sebZp⟩,
    ⟨0x13, 0x1F, .twoBit .bbcAcc⟩,
    ⟨0x17, 0x1F, .threeBit .bbcZp⟩,
    ⟨0x1B, 0x1F, .oneBit .clbAcc⟩,
    ⟨0x1F, 0x1F, .twoBit .clbZp⟩ ]

/-- The rows of operation codes 00 to 1F (R111). -/
def opTable0 : List OpRow :=
  [ ⟨0x00, 0xFF, .one .brk⟩,
    ⟨0x01, 0xFF, .two .oraIndX⟩,
    ⟨0x02, 0xFF, .two .jsrZpInd⟩,
    ⟨0x05, 0xFF, .two .oraZp⟩,
    ⟨0x06, 0xFF, .two .aslZp⟩,
    ⟨0x08, 0xFF, .one .php⟩,
    ⟨0x09, 0xFF, .two .oraImm⟩,
    ⟨0x0A, 0xFF, .one .aslAcc⟩,
    ⟨0x0D, 0xFF, .three fun ll hh => .oraAbs (joinBytes hh ll)⟩,
    ⟨0x0E, 0xFF, .three fun ll hh => .aslAbs (joinBytes hh ll)⟩,
    ⟨0x10, 0xFF, .two .bpl⟩,
    ⟨0x11, 0xFF, .two .oraIndY⟩,
    ⟨0x12, 0xFF, .one .clt⟩,
    ⟨0x15, 0xFF, .two .oraZpX⟩,
    ⟨0x16, 0xFF, .two .aslZpX⟩,
    ⟨0x18, 0xFF, .one .clc⟩,
    ⟨0x19, 0xFF, .three fun ll hh => .oraAbsY (joinBytes hh ll)⟩,
    ⟨0x1A, 0xFF, .one .decAcc⟩,
    ⟨0x1D, 0xFF, .three fun ll hh => .oraAbsX (joinBytes hh ll)⟩,
    ⟨0x1E, 0xFF, .three fun ll hh => .aslAbsX (joinBytes hh ll)⟩ ]

/-- The rows of operation codes 20 to 3F (R111). -/
def opTable1 : List OpRow :=
  [ ⟨0x20, 0xFF, .three fun ll hh => .jsrAbs (joinBytes hh ll)⟩,
    ⟨0x21, 0xFF, .two .andIndX⟩,
    ⟨0x22, 0xFF, .two .jsrSp⟩,
    ⟨0x24, 0xFF, .two .bitZp⟩,
    ⟨0x25, 0xFF, .two .andZp⟩,
    ⟨0x26, 0xFF, .two .rolZp⟩,
    ⟨0x28, 0xFF, .one .plp⟩,
    ⟨0x29, 0xFF, .two .andImm⟩,
    ⟨0x2A, 0xFF, .one .rolAcc⟩,
    ⟨0x2C, 0xFF, .three fun ll hh => .bitAbs (joinBytes hh ll)⟩,
    ⟨0x2D, 0xFF, .three fun ll hh => .andAbs (joinBytes hh ll)⟩,
    ⟨0x2E, 0xFF, .three fun ll hh => .rolAbs (joinBytes hh ll)⟩,
    ⟨0x30, 0xFF, .two .bmi⟩,
    ⟨0x31, 0xFF, .two .andIndY⟩,
    ⟨0x32, 0xFF, .one .set⟩,
    ⟨0x35, 0xFF, .two .andZpX⟩,
    ⟨0x36, 0xFF, .two .rolZpX⟩,
    ⟨0x38, 0xFF, .one .sec⟩,
    ⟨0x39, 0xFF, .three fun ll hh => .andAbsY (joinBytes hh ll)⟩,
    ⟨0x3A, 0xFF, .one .incAcc⟩,
    ⟨0x3C, 0xFF, .three .ldm⟩,
    ⟨0x3D, 0xFF, .three fun ll hh => .andAbsX (joinBytes hh ll)⟩,
    ⟨0x3E, 0xFF, .three fun ll hh => .rolAbsX (joinBytes hh ll)⟩ ]

/-- The rows of operation codes 40 to 5F (R111). -/
def opTable2 : List OpRow :=
  [ ⟨0x40, 0xFF, .one .rti⟩,
    ⟨0x41, 0xFF, .two .eorIndX⟩,
    ⟨0x42, 0xFF, .one .stp⟩,
    ⟨0x44, 0xFF, .two .com⟩,
    ⟨0x45, 0xFF, .two .eorZp⟩,
    ⟨0x46, 0xFF, .two .lsrZp⟩,
    ⟨0x48, 0xFF, .one .pha⟩,
    ⟨0x49, 0xFF, .two .eorImm⟩,
    ⟨0x4A, 0xFF, .one .lsrAcc⟩,
    ⟨0x4C, 0xFF, .three fun ll hh => .jmpAbs (joinBytes hh ll)⟩,
    ⟨0x4D, 0xFF, .three fun ll hh => .eorAbs (joinBytes hh ll)⟩,
    ⟨0x4E, 0xFF, .three fun ll hh => .lsrAbs (joinBytes hh ll)⟩,
    ⟨0x50, 0xFF, .two .bvc⟩,
    ⟨0x51, 0xFF, .two .eorIndY⟩,
    ⟨0x55, 0xFF, .two .eorZpX⟩,
    ⟨0x56, 0xFF, .two .lsrZpX⟩,
    ⟨0x58, 0xFF, .one .cli⟩,
    ⟨0x59, 0xFF, .three fun ll hh => .eorAbsY (joinBytes hh ll)⟩,
    ⟨0x5D, 0xFF, .three fun ll hh => .eorAbsX (joinBytes hh ll)⟩,
    ⟨0x5E, 0xFF, .three fun ll hh => .lsrAbsX (joinBytes hh ll)⟩ ]

/-- The rows of operation codes 60 to 7F (R111). -/
def opTable3 : List OpRow :=
  [ ⟨0x60, 0xFF, .one .rts⟩,
    ⟨0x61, 0xFF, .two .adcIndX⟩,
    ⟨0x62, 0xFF, .two .mul⟩,
    ⟨0x64, 0xFF, .two .tst⟩,
    ⟨0x65, 0xFF, .two .adcZp⟩,
    ⟨0x66, 0xFF, .two .rorZp⟩,
    ⟨0x68, 0xFF, .one .pla⟩,
    ⟨0x69, 0xFF, .two .adcImm⟩,
    ⟨0x6A, 0xFF, .one .rorAcc⟩,
    ⟨0x6C, 0xFF, .three fun ll hh => .jmpInd (joinBytes hh ll)⟩,
    ⟨0x6D, 0xFF, .three fun ll hh => .adcAbs (joinBytes hh ll)⟩,
    ⟨0x6E, 0xFF, .three fun ll hh => .rorAbs (joinBytes hh ll)⟩,
    ⟨0x70, 0xFF, .two .bvs⟩,
    ⟨0x71, 0xFF, .two .adcIndY⟩,
    ⟨0x75, 0xFF, .two .adcZpX⟩,
    ⟨0x76, 0xFF, .two .rorZpX⟩,
    ⟨0x78, 0xFF, .one .sei⟩,
    ⟨0x79, 0xFF, .three fun ll hh => .adcAbsY (joinBytes hh ll)⟩,
    ⟨0x7D, 0xFF, .three fun ll hh => .adcAbsX (joinBytes hh ll)⟩,
    ⟨0x7E, 0xFF, .three fun ll hh => .rorAbsX (joinBytes hh ll)⟩ ]

/-- The rows of operation codes 80 to 9F (R111). -/
def opTable4 : List OpRow :=
  [ ⟨0x80, 0xFF, .two .bra⟩,
    ⟨0x81, 0xFF, .two .staIndX⟩,
    ⟨0x82, 0xFF, .two .rrf⟩,
    ⟨0x84, 0xFF, .two .styZp⟩,
    ⟨0x85, 0xFF, .two .staZp⟩,
    ⟨0x86, 0xFF, .two .stxZp⟩,
    ⟨0x88, 0xFF, .one .dey⟩,
    ⟨0x8A, 0xFF, .one .txa⟩,
    ⟨0x8C, 0xFF, .three fun ll hh => .styAbs (joinBytes hh ll)⟩,
    ⟨0x8D, 0xFF, .three fun ll hh => .staAbs (joinBytes hh ll)⟩,
    ⟨0x8E, 0xFF, .three fun ll hh => .stxAbs (joinBytes hh ll)⟩,
    ⟨0x90, 0xFF, .two .bcc⟩,
    ⟨0x91, 0xFF, .two .staIndY⟩,
    ⟨0x94, 0xFF, .two .styZpX⟩,
    ⟨0x95, 0xFF, .two .staZpX⟩,
    ⟨0x96, 0xFF, .two .stxZpY⟩,
    ⟨0x98, 0xFF, .one .tya⟩,
    ⟨0x99, 0xFF, .three fun ll hh => .staAbsY (joinBytes hh ll)⟩,
    ⟨0x9A, 0xFF, .one .txs⟩,
    ⟨0x9D, 0xFF, .three fun ll hh => .staAbsX (joinBytes hh ll)⟩ ]

/-- The rows of operation codes A0 to BF (R111). -/
def opTable5 : List OpRow :=
  [ ⟨0xA0, 0xFF, .two .ldyImm⟩,
    ⟨0xA1, 0xFF, .two .ldaIndX⟩,
    ⟨0xA2, 0xFF, .two .ldxImm⟩,
    ⟨0xA4, 0xFF, .two .ldyZp⟩,
    ⟨0xA5, 0xFF, .two .ldaZp⟩,
    ⟨0xA6, 0xFF, .two .ldxZp⟩,
    ⟨0xA8, 0xFF, .one .tay⟩,
    ⟨0xA9, 0xFF, .two .ldaImm⟩,
    ⟨0xAA, 0xFF, .one .tax⟩,
    ⟨0xAC, 0xFF, .three fun ll hh => .ldyAbs (joinBytes hh ll)⟩,
    ⟨0xAD, 0xFF, .three fun ll hh => .ldaAbs (joinBytes hh ll)⟩,
    ⟨0xAE, 0xFF, .three fun ll hh => .ldxAbs (joinBytes hh ll)⟩,
    ⟨0xB0, 0xFF, .two .bcs⟩,
    ⟨0xB1, 0xFF, .two .ldaIndY⟩,
    ⟨0xB2, 0xFF, .two .jmpZpInd⟩,
    ⟨0xB4, 0xFF, .two .ldyZpX⟩,
    ⟨0xB5, 0xFF, .two .ldaZpX⟩,
    ⟨0xB6, 0xFF, .two .ldxZpY⟩,
    ⟨0xB8, 0xFF, .one .clv⟩,
    ⟨0xB9, 0xFF, .three fun ll hh => .ldaAbsY (joinBytes hh ll)⟩,
    ⟨0xBA, 0xFF, .one .tsx⟩,
    ⟨0xBC, 0xFF, .three fun ll hh => .ldyAbsX (joinBytes hh ll)⟩,
    ⟨0xBD, 0xFF, .three fun ll hh => .ldaAbsX (joinBytes hh ll)⟩,
    ⟨0xBE, 0xFF, .three fun ll hh => .ldxAbsY (joinBytes hh ll)⟩ ]

/-- The rows of operation codes C0 to DF (R111). -/
def opTable6 : List OpRow :=
  [ ⟨0xC0, 0xFF, .two .cpyImm⟩,
    ⟨0xC1, 0xFF, .two .cmpIndX⟩,
    ⟨0xC2, 0xFF, .one .wit⟩,
    ⟨0xC4, 0xFF, .two .cpyZp⟩,
    ⟨0xC5, 0xFF, .two .cmpZp⟩,
    ⟨0xC6, 0xFF, .two .decZp⟩,
    ⟨0xC8, 0xFF, .one .iny⟩,
    ⟨0xC9, 0xFF, .two .cmpImm⟩,
    ⟨0xCA, 0xFF, .one .dex⟩,
    ⟨0xCC, 0xFF, .three fun ll hh => .cpyAbs (joinBytes hh ll)⟩,
    ⟨0xCD, 0xFF, .three fun ll hh => .cmpAbs (joinBytes hh ll)⟩,
    ⟨0xCE, 0xFF, .three fun ll hh => .decAbs (joinBytes hh ll)⟩,
    ⟨0xD0, 0xFF, .two .bne⟩,
    ⟨0xD1, 0xFF, .two .cmpIndY⟩,
    ⟨0xD5, 0xFF, .two .cmpZpX⟩,
    ⟨0xD6, 0xFF, .two .decZpX⟩,
    ⟨0xD8, 0xFF, .one .cld⟩,
    ⟨0xD9, 0xFF, .three fun ll hh => .cmpAbsY (joinBytes hh ll)⟩,
    ⟨0xDD, 0xFF, .three fun ll hh => .cmpAbsX (joinBytes hh ll)⟩,
    ⟨0xDE, 0xFF, .three fun ll hh => .decAbsX (joinBytes hh ll)⟩ ]

/-- The rows of operation codes E0 to FF (R111). -/
def opTable7 : List OpRow :=
  [ ⟨0xE0, 0xFF, .two .cpxImm⟩,
    ⟨0xE1, 0xFF, .two .sbcIndX⟩,
    ⟨0xE2, 0xFF, .two .div⟩,
    ⟨0xE4, 0xFF, .two .cpxZp⟩,
    ⟨0xE5, 0xFF, .two .sbcZp⟩,
    ⟨0xE6, 0xFF, .two .incZp⟩,
    ⟨0xE8, 0xFF, .one .inx⟩,
    ⟨0xE9, 0xFF, .two .sbcImm⟩,
    ⟨0xEA, 0xFF, .one .nop⟩,
    ⟨0xEC, 0xFF, .three fun ll hh => .cpxAbs (joinBytes hh ll)⟩,
    ⟨0xED, 0xFF, .three fun ll hh => .sbcAbs (joinBytes hh ll)⟩,
    ⟨0xEE, 0xFF, .three fun ll hh => .incAbs (joinBytes hh ll)⟩,
    ⟨0xF0, 0xFF, .two .beq⟩,
    ⟨0xF1, 0xFF, .two .sbcIndY⟩,
    ⟨0xF5, 0xFF, .two .sbcZpX⟩,
    ⟨0xF6, 0xFF, .two .incZpX⟩,
    ⟨0xF8, 0xFF, .one .sed⟩,
    ⟨0xF9, 0xFF, .three fun ll hh => .sbcAbsY (joinBytes hh ll)⟩,
    ⟨0xFD, 0xFF, .three fun ll hh => .sbcAbsX (joinBytes hh ll)⟩,
    ⟨0xFE, 0xFF, .three fun ll hh => .incAbsX (joinBytes hh ll)⟩ ]

/-- The operation code table: 175 rows, 231 operation codes (R111, R117). -/
def opTable : List OpRow :=
  opTableBits ++ opTable0 ++ opTable1 ++ opTable2 ++ opTable3 ++ opTable4 ++ opTable5 ++ opTable6
    ++ opTable7

/-- The row a first byte selects (R103, R117). -/
def opRow (op : Byte) : Option OpRow := opTable.find? fun r => op &&& r.mask == r.code

/-- The length in bytes of the instructions a row stands for (R101). -/
def Build.len : Build → Nat
  | .one _ | .oneBit _ => 1
  | .two _ | .twoBit _ => 2
  | .three _ | .threeBit _ => 3

/-- The length of the instruction a first byte begins, none where no instruction is assigned (R103, R112). -/
def opLength (op : Byte) : Option Nat := (opRow op).map fun r => r.build.len

/-- The bit number field of an operation code, bits 7 to 5 (R102, R108). -/
def bitField (op : Byte) : BitNo := op.extractLsb' 5 3

/-- The instruction a row makes of the operation code and the bytes after it, with the bytes left over. -/
def Build.apply (op : Byte) : Build → List Byte → Except DecodeRefusal (Instr × List Byte)
  | .one i, rest => .ok (i, rest)
  | .oneBit f, rest => .ok (f (bitField op), rest)
  | .two f, b1 :: rest => .ok (f b1, rest)
  | .twoBit f, b1 :: rest => .ok (f (bitField op) b1, rest)
  | .three f, b1 :: b2 :: rest => .ok (f b1 b2, rest)
  | .threeBit f, b1 :: b2 :: rest => .ok (f (bitField op) b1 b2, rest)
  | _, _ => .error .truncated

/-- The decoder: the first instruction of a list of bytes at ascending addresses, and the bytes after it
(R73, R100). -/
def decode : List Byte → Except DecodeRefusal (Instr × List Byte)
  | [] => .error .truncated
  | op :: rest =>
    match opRow op with
    | none => .error (.undefinedOpcode op)
    | some r => r.build.apply op rest

/-- A bit-field operation code: the bit number over the five selecting bits (R102). -/
def bitOp (i : BitNo) (k : BitVec 5) : Byte := i ++ k

/-- The encoder: the bytes of an instruction at ascending addresses (R101, R102, R111). -/
def encode : Instr → List Byte
  | .adcIndX zz => [0x61, zz]
  | .adcZp zz => [0x65, zz]
  | .adcImm nn => [0x69, nn]
  | .adcAbs hhll => [0x6D, lowByte hhll, highByte hhll]
  | .adcIndY zz => [0x71, zz]
  | .adcZpX zz => [0x75, zz]
  | .adcAbsY hhll => [0x79, lowByte hhll, highByte hhll]
  | .adcAbsX hhll => [0x7D, lowByte hhll, highByte hhll]
  | .andIndX zz => [0x21, zz]
  | .andZp zz => [0x25, zz]
  | .andImm nn => [0x29, nn]
  | .andAbs hhll => [0x2D, lowByte hhll, highByte hhll]
  | .andIndY zz => [0x31, zz]
  | .andZpX zz => [0x35, zz]
  | .andAbsY hhll => [0x39, lowByte hhll, highByte hhll]
  | .andAbsX hhll => [0x3D, lowByte hhll, highByte hhll]
  | .aslZp zz => [0x06, zz]
  | .aslAcc => [0x0A]
  | .aslAbs hhll => [0x0E, lowByte hhll, highByte hhll]
  | .aslZpX zz => [0x16, zz]
  | .aslAbsX hhll => [0x1E, lowByte hhll, highByte hhll]
  | .bbcAcc i rr => [bitOp i 0b10011, rr]
  | .bbcZp i zz rr => [bitOp i 0b10111, zz, rr]
  | .bbsAcc i rr => [bitOp i 0b00011, rr]
  | .bbsZp i zz rr => [bitOp i 0b00111, zz, rr]
  | .bcc rr => [0x90, rr]
  | .bcs rr => [0xB0, rr]
  | .beq rr => [0xF0, rr]
  | .bitZp zz => [0x24, zz]
  | .bitAbs hhll => [0x2C, lowByte hhll, highByte hhll]
  | .bmi rr => [0x30, rr]
  | .bne rr => [0xD0, rr]
  | .bpl rr => [0x10, rr]
  | .bra rr => [0x80, rr]
  | .brk => [0x00]
  | .bvc rr => [0x50, rr]
  | .bvs rr => [0x70, rr]
  | .clbAcc i => [bitOp i 0b11011]
  | .clbZp i zz => [bitOp i 0b11111, zz]
  | .clc => [0x18]
  | .cld => [0xD8]
  | .cli => [0x58]
  | .clt => [0x12]
  | .clv => [0xB8]
  | .cmpIndX zz => [0xC1, zz]
  | .cmpZp zz => [0xC5, zz]
  | .cmpImm nn => [0xC9, nn]
  | .cmpAbs hhll => [0xCD, lowByte hhll, highByte hhll]
  | .cmpIndY zz => [0xD1, zz]
  | .cmpZpX zz => [0xD5, zz]
  | .cmpAbsY hhll => [0xD9, lowByte hhll, highByte hhll]
  | .cmpAbsX hhll => [0xDD, lowByte hhll, highByte hhll]
  | .com zz => [0x44, zz]
  | .cpxImm nn => [0xE0, nn]
  | .cpxZp zz => [0xE4, zz]
  | .cpxAbs hhll => [0xEC, lowByte hhll, highByte hhll]
  | .cpyImm nn => [0xC0, nn]
  | .cpyZp zz => [0xC4, zz]
  | .cpyAbs hhll => [0xCC, lowByte hhll, highByte hhll]
  | .decAcc => [0x1A]
  | .decZp zz => [0xC6, zz]
  | .decAbs hhll => [0xCE, lowByte hhll, highByte hhll]
  | .decZpX zz => [0xD6, zz]
  | .decAbsX hhll => [0xDE, lowByte hhll, highByte hhll]
  | .dex => [0xCA]
  | .dey => [0x88]
  | .div zz => [0xE2, zz]
  | .eorIndX zz => [0x41, zz]
  | .eorZp zz => [0x45, zz]
  | .eorImm nn => [0x49, nn]
  | .eorAbs hhll => [0x4D, lowByte hhll, highByte hhll]
  | .eorIndY zz => [0x51, zz]
  | .eorZpX zz => [0x55, zz]
  | .eorAbsY hhll => [0x59, lowByte hhll, highByte hhll]
  | .eorAbsX hhll => [0x5D, lowByte hhll, highByte hhll]
  | .incAcc => [0x3A]
  | .incZp zz => [0xE6, zz]
  | .incAbs hhll => [0xEE, lowByte hhll, highByte hhll]
  | .incZpX zz => [0xF6, zz]
  | .incAbsX hhll => [0xFE, lowByte hhll, highByte hhll]
  | .inx => [0xE8]
  | .iny => [0xC8]
  | .jmpAbs hhll => [0x4C, lowByte hhll, highByte hhll]
  | .jmpInd hhll => [0x6C, lowByte hhll, highByte hhll]
  | .jmpZpInd zz => [0xB2, zz]
  | .jsrZpInd zz => [0x02, zz]
  | .jsrAbs hhll => [0x20, lowByte hhll, highByte hhll]
  | .jsrSp ll => [0x22, ll]
  | .ldaIndX zz => [0xA1, zz]
  | .ldaZp zz => [0xA5, zz]
  | .ldaImm nn => [0xA9, nn]
  | .ldaAbs hhll => [0xAD, lowByte hhll, highByte hhll]
  | .ldaIndY zz => [0xB1, zz]
  | .ldaZpX zz => [0xB5, zz]
  | .ldaAbsY hhll => [0xB9, lowByte hhll, highByte hhll]
  | .ldaAbsX hhll => [0xBD, lowByte hhll, highByte hhll]
  | .ldm nn zz => [0x3C, nn, zz]
  | .ldxImm nn => [0xA2, nn]
  | .ldxZp zz => [0xA6, zz]
  | .ldxAbs hhll => [0xAE, lowByte hhll, highByte hhll]
  | .ldxZpY zz => [0xB6, zz]
  | .ldxAbsY hhll => [0xBE, lowByte hhll, highByte hhll]
  | .ldyImm nn => [0xA0, nn]
  | .ldyZp zz => [0xA4, zz]
  | .ldyAbs hhll => [0xAC, lowByte hhll, highByte hhll]
  | .ldyZpX zz => [0xB4, zz]
  | .ldyAbsX hhll => [0xBC, lowByte hhll, highByte hhll]
  | .lsrZp zz => [0x46, zz]
  | .lsrAcc => [0x4A]
  | .lsrAbs hhll => [0x4E, lowByte hhll, highByte hhll]
  | .lsrZpX zz => [0x56, zz]
  | .lsrAbsX hhll => [0x5E, lowByte hhll, highByte hhll]
  | .mul zz => [0x62, zz]
  | .nop => [0xEA]
  | .oraIndX zz => [0x01, zz]
  | .oraZp zz => [0x05, zz]
  | .oraImm nn => [0x09, nn]
  | .oraAbs hhll => [0x0D, lowByte hhll, highByte hhll]
  | .oraIndY zz => [0x11, zz]
  | .oraZpX zz => [0x15, zz]
  | .oraAbsY hhll => [0x19, lowByte hhll, highByte hhll]
  | .oraAbsX hhll => [0x1D, lowByte hhll, highByte hhll]
  | .pha => [0x48]
  | .php => [0x08]
  | .pla => [0x68]
  | .plp => [0x28]
  | .rolZp zz => [0x26, zz]
  | .rolAcc => [0x2A]
  | .rolAbs hhll => [0x2E, lowByte hhll, highByte hhll]
  | .rolZpX zz => [0x36, zz]
  | .rolAbsX hhll => [0x3E, lowByte hhll, highByte hhll]
  | .rorZp zz => [0x66, zz]
  | .rorAcc => [0x6A]
  | .rorAbs hhll => [0x6E, lowByte hhll, highByte hhll]
  | .rorZpX zz => [0x76, zz]
  | .rorAbsX hhll => [0x7E, lowByte hhll, highByte hhll]
  | .rrf zz => [0x82, zz]
  | .rti => [0x40]
  | .rts => [0x60]
  | .sbcIndX zz => [0xE1, zz]
  | .sbcZp zz => [0xE5, zz]
  | .sbcImm nn => [0xE9, nn]
  | .sbcAbs hhll => [0xED, lowByte hhll, highByte hhll]
  | .sbcIndY zz => [0xF1, zz]
  | .sbcZpX zz => [0xF5, zz]
  | .sbcAbsY hhll => [0xF9, lowByte hhll, highByte hhll]
  | .sbcAbsX hhll => [0xFD, lowByte hhll, highByte hhll]
  | .sebAcc i => [bitOp i 0b01011]
  | .sebZp i zz => [bitOp i 0b01111, zz]
  | .sec => [0x38]
  | .sed => [0xF8]
  | .sei => [0x78]
  | .set => [0x32]
  | .staIndX zz => [0x81, zz]
  | .staZp zz => [0x85, zz]
  | .staAbs hhll => [0x8D, lowByte hhll, highByte hhll]
  | .staIndY zz => [0x91, zz]
  | .staZpX zz => [0x95, zz]
  | .staAbsY hhll => [0x99, lowByte hhll, highByte hhll]
  | .staAbsX hhll => [0x9D, lowByte hhll, highByte hhll]
  | .stp => [0x42]
  | .stxZp zz => [0x86, zz]
  | .stxAbs hhll => [0x8E, lowByte hhll, highByte hhll]
  | .stxZpY zz => [0x96, zz]
  | .styZp zz => [0x84, zz]
  | .styAbs hhll => [0x8C, lowByte hhll, highByte hhll]
  | .styZpX zz => [0x94, zz]
  | .tax => [0xAA]
  | .tay => [0xA8]
  | .tst zz => [0x64, zz]
  | .tsx => [0xBA]
  | .txa => [0x8A]
  | .txs => [0x9A]
  | .tya => [0x98]
  | .wit => [0xC2]

/-- The bytes of a number whose bits 7 to 0 are the first byte: `n` bytes, the first at the lowest
address. -/
def numberBytes (n w : Nat) : List Byte := (List.range n).map fun k => BitVec.ofNat 8 (w / 256 ^ k)

/-- The longest instruction has 3 bytes (R100). -/
def longestInstr : Nat := 3

/-- The bytes of an instruction whose low `nbits` bits are those of `w`, bit 0 being the least significant
of the first byte; every bit above is 0. -/
def tableBytes (nbits w : Nat) : List Byte := numberBytes longestInstr (w % 2 ^ nbits)

/-- What the decoder reads from an instruction whose bits are numbered as spec/opcode_table.json numbers
them. -/
def decodeTableWord (nbits w : Nat) : Option Instr :=
  match decode (tableBytes nbits w) with
  | .ok (i, _) => some i
  | .error _ => none

end Sys2Proof
end

