-- ==== Sys2Proof/Config.lean ====
section
/-!
DEFINITION. What a product fixes (R8, R82, R310) and the values the spec leaves free (R11).

The parameters are plain data that a `State` carries in its field `cfg` and that no step changes (R54):
a statement about every state is a statement about every product. The free values are opaque constants:
nothing can be proved of their values.
-/

namespace Sys2Proof

/-- `STACK_PAGE`: the high-order byte of every stack address is 00 or 01 (R8, R80). -/
inductive StackPage where
  | page0
  | page1
deriving DecidableEq, Repr

/-- What the platform declares an address to be (R71, R82, U10). `rom true` is read-only memory on which
the platform says a write has no effect; on `rom false` the platform says nothing of writes. -/
inductive RegionKind where
  | ram
  | rom (ignoresWrites : Bool)
  | io
  | unimplemented
deriving DecidableEq, Repr

/-- One region of the memory map: `size` addresses from `base` on (R82). -/
structure Region where
  base : Nat
  size : Nat
  kind : RegionKind
deriving DecidableEq, Repr

/-- What a product fixes of one interrupt source (R310, R311): its vector table entry `INT_VECTOR(src)`,
whether it is an external interrupt, where its request bit and its enable bit lie, whether `Accept(src)`
clears the request bit, whether software can set the request bit by writing 1 to it, and at which I/O
addresses a store may change its two bits in a way that is the platform's alone (R71, log 8). -/
structure Source where
  vector : Addr
  external : Bool
  requestAddr : Addr
  requestBit : BitNo
  enableAddr : Addr
  enableBit : BitNo
  acceptClears : Bool
  writeSetsRequest : Bool
  reachedFrom : List Addr
deriving DecidableEq, Repr

/-- The parameters of R8 and the memory map of R82. Where two regions of `map` hold an address the
first counts; an address no region holds is plain memory. `resetEntry` is the reset entry address where
the `RESET_VECTOR` entry holds no value (R340). -/
structure Config where
  stackPage : StackPage
  hasMulDiv : Bool
  stpEnabled : Bool
  resetVector : Addr
  resetEntry : Addr
  brkVector : Addr
  zpPtrWrap : Bool
  wakeNeedsAccept : Bool
  map : List Region
deriving DecidableEq, Repr

/-- The parameters of the reset state: the values spec/95_test_vectors.md uses where nothing else is
said, and the defaults of R8. DESIGN CHOICE, unsafe: log 5 and log 6. -/
def Config.typical : Config where
  stackPage := .page1
  hasMulDiv := true
  stpEnabled := true
  resetVector := 0xFFFE
  resetEntry := 0xC000
  brkVector := 0xFFF4
  zpPtrWrap := true
  wakeNeedsAccept := true
  map := []

/-- `any_8`: the n-th free draw of a byte (R11). DESIGN CHOICE, safe: log 15. -/
opaque Config.freeByte : Nat → Byte

/-- `any_1`: the n-th free draw of a bit (R11). DESIGN CHOICE, safe: log 15. -/
opaque Config.freeBit : Nat → Bool

/-- What the I/O location at an address reads as at the n-th draw (R71, D12). DESIGN CHOICE, safe: log 8. -/
opaque Config.ioByte : Nat → Addr → Byte

/-- The request and the enable bit the platform gives a source at the n-th draw, where a store to an I/O
location reaches it (R71, D12). DESIGN CHOICE, safe: log 8. -/
opaque Config.ioStore : Nat → Source → Bool × Bool

/-- What a byte of plain memory that nothing has written reads as, by its address (R93, U15).
DESIGN CHOICE, safe: log 7. -/
opaque Config.initialByte : Nat → Byte

end Sys2Proof
end

