-- ==== Sys2Proof/Machine/State.lean ====
section
/-!
DEFINITION. The state of the machine, why a step can stop, and the state after reset.
-/

namespace Sys2Proof.Machine

/-- Why the machine stops. The hardware has no synchronous exception (R300): each of these is an outcome
of the model for behaviour the spec leaves undefined, or for a machine that can never go on. -/
inductive Fault where
  /-- Raised by the fetch of one of the 25 operation codes with no instruction assigned (R112), and by MUL
  and DIV on a product without them (R113). Safe: the spec gives no effect. -/
  | undefinedOpcode (op : Byte)
  /-- Raised by `JMP ($hhFF)`, operation code 6C (R142, R260, R355). Safe: the spec gives no effect. -/
  | jmpIndirectPageEnd
  /-- Raised by any access to an address the platform declares unimplemented (R82, U10). Safe. -/
  | unimplementedAddress (a : Addr)
  /-- Raised by a write to read-only memory where the platform does not say that it has no effect
  (R82, U10). Safe. -/
  | romWrite (a : Addr)
  /-- Raised by a step in the wait or stop state when nothing wakes the CPU and no platform input is left:
  the stuck state of U18, the end of the run (R326, R360). Safe. -/
  | noWakeEvent
deriving DecidableEq, Repr

/-- Why an instruction has no meaning. -/
inductive Refusal where
  /-- Raised by `exec` for an instruction that has no meaning yet, by its mnemonic; no instruction is left
  so. Safe. -/
  | notModelled (mnemonic : String)
deriving DecidableEq, Repr

/-- The run state (R51). Only `running` executes instructions. -/
inductive RunState where
  | running
  | waiting
  | stopped
deriving DecidableEq, Repr

/-- The eight flags of PS, bit 7 (N) to bit 0 (C); PS has no other bit (R36). As a byte it is
`Status.toByte` (log 44). -/
structure Status where
  n : Bool
  v : Bool
  t : Bool
  b : Bool
  d : Bool
  i : Bool
  z : Bool
  c : Bool
deriving DecidableEq, Repr

/-- PS with only I set. -/
def Status.onlyI : Status where
  n := false
  v := false
  t := false
  b := false
  d := false
  i := true
  z := false
  c := false

/-- An interrupt source of the platform with its request bit and its enable bit (R310). -/
structure Line where
  src : Source
  request : Bool
  enable : Bool
deriving DecidableEq, Repr

/-- Memory contents: cells with rising addresses, each holding a byte. An address with no cell holds no
value (R93). -/
abbrev Memory := List Host.Cell

/-- The canonical form of a memory: addresses strictly rising from `low` on and inside the address space
(R70). What an unlisted address reads as is no value of a cell, so no cell is redundant. -/
def Memory.wfFrom : Nat → Memory → Bool
  | _, [] => true
  | low, (a, _) :: rest => decide (low ≤ a) && decide (a < 65536) && Memory.wfFrom (a + 1) rest

/-- The canonical form of a memory holds. -/
def Memory.wf (m : Memory) : Bool := Memory.wfFrom 0 m

/-- What the spec leaves to the platform at a reset: the registers and flags that become indeterminate, the
memory image, and the request and enable bits, source by source (R340, R341, R93). -/
structure ResetValues where
  a : Byte
  x : Byte
  y : Byte
  sp : Byte
  ps : Byte
  image : List Host.Cell
  bits : List (Bool × Bool)
deriving DecidableEq, Repr

/-- What the platform does at one instruction boundary: it raises the requests of the sources at these
places of the list of sources, or resets the machine (R52, R340). That it neither withdraws a request nor
changes an enable bit there is a DESIGN CHOICE, log 45. -/
inductive Input where
  | requests (sources : List Nat)
  | reset (v : ResetValues)
deriving DecidableEq, Repr

/-- The state of the machine. `a`, `x`, `y`, `sp` (S), `ps` (PS) and `pc` are the six registers (R30 to
R36); `run` the run state (R51); `mem` the contents of memory (R70); `lines` the interrupt sources of the
platform, highest priority first (R310, R313); `cfg` the product's parameters (R8). The last four fields
are the model's own: `inputs` what the platform does at the coming boundaries, `draws` how many free
values have been drawn (R11), `afterDecimal` whether the instruction executed directly before was an ADC
or SBC with D = 1 (R350), `lastWrites` the addresses it stored to, with the pushes of an interrupt entry since
then (R352, U11). -/
structure State where
  a : Byte
  x : Byte
  y : Byte
  sp : Byte
  ps : Status
  pc : Addr
  run : RunState
  mem : Memory
  lines : List Line
  cfg : Config
  inputs : List Input
  draws : Nat
  afterDecimal : Bool
  lastWrites : List Addr
deriving DecidableEq, Repr

/-- The machine right after reset (R53, R340, R341): I is 1 and the run state is `running`, as the spec
says; every indeterminate register and flag is 0, the PC is the reset entry, memory lists nothing and no
interrupt source is connected. DESIGN CHOICE, unsafe: logs 1 to 7, 10, 13. -/
def State.reset : State where
  a := 0x00
  x := 0x00
  y := 0x00
  sp := 0x00
  ps := .onlyI
  pc := 0xC000
  run := .running
  mem := []
  lines := []
  cfg := Config.typical
  inputs := []
  draws := 0
  afterDecimal := false
  lastWrites := []

end Sys2Proof.Machine
end

