-- ==== Sys2Proof/Machine/Regs.lean ====
section
/-!
DEFINITION. The named updates of the state, one per field: every operation changes the state through
them.
-/

namespace Sys2Proof.Machine

/-- `A <- v` (R31). -/
def State.setA (s : State) (v : Byte) : State := { s with a := v }

/-- `X <- v` (R32). -/
def State.setX (s : State) (v : Byte) : State := { s with x := v }

/-- `Y <- v` (R32). -/
def State.setY (s : State) (v : Byte) : State := { s with y := v }

/-- `S <- v` (R33). -/
def State.setSp (s : State) (v : Byte) : State := { s with sp := v }

/-- `PS <- v`, all eight flags (R36). -/
def State.setPs (s : State) (v : Status) : State := { s with ps := v }

/-- `PC <- v` (R34). -/
def State.setPc (s : State) (v : Addr) : State := { s with pc := v }

/-- `run_state <- r` (R51). -/
def State.setRun (s : State) (r : RunState) : State := { s with run := r }

/-- The contents of memory (R70). -/
def State.setMem (s : State) (m : Memory) : State := { s with mem := m }

/-- The interrupt sources with their request and enable bits (R310). -/
def State.setLines (s : State) (l : List Line) : State := { s with lines := l }

/-- The platform's inputs at the coming boundaries. -/
def State.setInputs (s : State) (l : List Input) : State := { s with inputs := l }

/-- Counts `n` free values as drawn (R11). -/
def State.draw (s : State) (n : Nat) : State := { s with draws := s.draws + n }

/-- Whether the instruction just executed is an ADC or SBC with D = 1 (R350). -/
def State.setAfterDecimal (s : State) (b : Bool) : State := { s with afterDecimal := b }

/-- The addresses the instruction just executed stores to (R352, U11). -/
def State.setLastWrites (s : State) (l : List Addr) : State := { s with lastWrites := l }

end Sys2Proof.Machine
end

