-- ==== Sys2Proof/Machine/Flags.lean ====
section
/-!
DEFINITION. The flags of PS and every computation the spec gives them: the four adders, comparison, the
shifts and rotates (R36 to R47, R190 to R193, R216 to R223).
-/

namespace Sys2Proof.Machine

/-- The eight flags (R36). -/
inductive Flag where
  | c
  | z
  | i
  | d
  | b
  | t
  | v
  | n
deriving DecidableEq, Repr

/-- The bit of PS that holds a flag (R10, R36). -/
def Flag.pos : Flag → Nat
  | .c => 0
  | .z => 1
  | .i => 2
  | .d => 3
  | .b => 4
  | .t => 5
  | .v => 6
  | .n => 7

/-- The 8-bit value with only bit `i` set (R240). -/
def oneBit (i : Nat) : Byte := 1#8 <<< i

/-- A byte with bit `i` written and no other (R10, R240, R241). -/
def putBit (v : Byte) (i : Nat) (b : Bool) : Byte :=
  if b then v ||| oneBit i else v &&& ~~~oneBit i

/-- Bit `i` of a byte (R9). -/
def bitOf (v : Byte) (i : Nat) : Bool := v.getLsbD i

/-- One flag of PS (R10). -/
def Status.get (p : Status) : Flag → Bool
  | .n => p.n
  | .v => p.v
  | .t => p.t
  | .b => p.b
  | .d => p.d
  | .i => p.i
  | .z => p.z
  | .c => p.c

/-- PS with one flag written and no other (R10). -/
def Status.set (p : Status) (f : Flag) (x : Bool) : Status :=
  match f with
  | .n => { p with n := x }
  | .v => { p with v := x }
  | .t => { p with t := x }
  | .b => { p with b := x }
  | .d => { p with d := x }
  | .i => { p with i := x }
  | .z => { p with z := x }
  | .c => { p with c := x }

/-- PS as a byte: each flag at its bit (R36). -/
def Status.toByte (p : Status) : Byte :=
  [Flag.c, .z, .i, .d, .b, .t, .v, .n].foldl (fun v f => putBit v f.pos (p.get f)) 0

/-- The flags a byte holds (R36). -/
def Status.ofByte (v : Byte) : Status where
  n := bitOf v Flag.n.pos
  v := bitOf v Flag.v.pos
  t := bitOf v Flag.t.pos
  b := bitOf v Flag.b.pos
  d := bitOf v Flag.d.pos
  i := bitOf v Flag.i.pos
  z := bitOf v Flag.z.pos
  c := bitOf v Flag.c.pos

/-- A flag's value (R10). -/
def State.flag (s : State) (f : Flag) : Bool := s.ps.get f

/-- Writing a flag writes that flag and no other (R10). -/
def State.setFlag (s : State) (f : Flag) (b : Bool) : State := s.setPs (s.ps.set f b)

/-- `SetNZ(v)`: N is bit 7, Z is 1 where the byte is 0 (R11). -/
def State.setNZ (s : State) (v : Byte) : State := (s.setFlag .n (bitOf v 7)).setFlag .z (v == 0)

/-- A result byte with the flags an operation computes with it. -/
structure AluResult where
  r : Byte
  n : Bool
  v : Bool
  z : Bool
  c : Bool
deriving DecidableEq, Repr

/-- Writes N, V, Z and C, and no other flag (R194, R195). -/
def State.setNVZC (s : State) (q : AluResult) : State :=
  (((s.setFlag .n q.n).setFlag .v q.v).setFlag .z q.z).setFlag .c q.c

/-- A sum or difference of two signed bytes is outside −128 to 127 (R45, R190). -/
def signedOverflow (k : Int) : Bool := decide (127 < k) || decide (k < -128)

/-- A carry as a number, 0 or 1. -/
def carryNat (c : Bool) : Nat := if c then 1 else 0

/-- `AddBin(a, m, c)` (R190). -/
def addBin (a m : Byte) (c : Bool) : AluResult :=
  let sum := a.toNat + m.toNat + carryNat c
  let r := BitVec.ofNat 8 sum
  { r := r
    n := bitOf r 7
    v := signedOverflow (a.toInt + m.toInt + carryNat c)
    z := r == 0
    c := decide (255 < sum) }

/-- `SubBin(a, m, c)`: the borrow is the complement of C (R192). -/
def subBin (a m : Byte) (c : Bool) : AluResult :=
  let diff : Int := a.toNat - m.toNat - (1 - carryNat c : Nat)
  let r := BitVec.ofInt 8 diff
  { r := r
    n := bitOf r 7
    v := signedOverflow (a.toInt - m.toInt - (1 - carryNat c : Nat))
    z := r == 0
    c := decide (0 ≤ diff) }

/-- A valid decimal numeral: both digits are at most 9 (R191). -/
def isDecimal (v : Byte) : Bool := decide (v.toNat / 16 ≤ 9) && decide (v.toNat % 16 ≤ 9)

/-- The value of a decimal numeral (R191). -/
def decOf (v : Byte) : Nat := 10 * (v.toNat / 16) + v.toNat % 16

/-- `bcd(n)`, the decimal numeral of a number from 0 to 99 (R191). -/
def bcdOf (n : Nat) : Byte := BitVec.ofNat 8 (16 * (n / 10) + n % 10)

/-- How many free values a decimal addition or subtraction counts as drawn. -/
def decimalDraws : Nat := 4

/-- What a decimal addition or subtraction leaves of its own result and carry: N, V and Z are free draws
(R191, R193). -/
def decimalResult (k : Nat) (r : Byte) (c : Bool) : AluResult :=
  { r := r
    n := Config.freeBit (k + 1)
    v := Config.freeBit (k + 2)
    z := Config.freeBit (k + 3)
    c := c }

/-- `AddDec(a, m, c)`, drawing from the `k`-th free value on (R191). -/
def addDec (k : Nat) (a m : Byte) (c : Bool) : AluResult :=
  if isDecimal a && isDecimal m then
    let sum := decOf a + decOf m + carryNat c
    decimalResult k (bcdOf (sum % 100)) (decide (99 < sum))
  else decimalResult k (Config.freeByte k) (Config.freeBit k)

/-- `SubDec(a, m, c)`, drawing from the `k`-th free value on; a difference below 0 becomes its ten's
complement (R193, log 31). -/
def subDec (k : Nat) (a m : Byte) (c : Bool) : AluResult :=
  if isDecimal a && isDecimal m then
    let diff : Int := decOf a - decOf m - (1 - carryNat c : Nat)
    decimalResult k (bcdOf (if 0 ≤ diff then diff.toNat else (diff + 100).toNat)) (decide (0 ≤ diff))
  else decimalResult k (Config.freeByte k) (Config.freeBit k)

/-- The flags of a comparison: N and Z of the difference, C where the first is not below the second as
unsigned numbers; V is not written (R216 to R218). -/
def State.setCompare (s : State) (p q : Byte) : State :=
  (s.setNZ (p - q)).setFlag .c (decide (q.toNat ≤ p.toNat))

/-- ASL: bit 7 goes to C, 0 comes into bit 0 (R219). -/
def shiftLeft (v : Byte) : Byte := v <<< 1

/-- LSR: bit 0 goes to C, 0 comes into bit 7 (R220). -/
def shiftRight (v : Byte) : Byte := v >>> 1

/-- ROL: the old C comes into bit 0 (R221). -/
def rotateLeft (c : Bool) (v : Byte) : Byte := putBit (v <<< 1) 0 c

/-- ROR: the old C comes into bit 7 (R222). -/
def rotateRight (c : Bool) (v : Byte) : Byte := putBit (v >>> 1) 7 c

/-- RRF: the two halves of the byte change places (R223, log 39). -/
def swapHalves (v : Byte) : Byte := v.extractLsb' 0 4 ++ v.extractLsb' 4 4

/-- C and then N, Z of a shift's or rotate's result (R219 to R222). -/
def State.setShift (s : State) (c : Bool) (r : Byte) : State := (s.setFlag .c c).setNZ r

end Sys2Proof.Machine
end

