-- ==== Sys2Proof/Machine/Ops.lean ====
section
/-!
DEFINITION. The named operations over memory, the stack and the interrupt sources; the interrupt entry
sequence and the return from it; reset.

An operation that may stop answers `Res`: a fault, or its result with the state after it.
-/

namespace Sys2Proof.Machine

/-- A result, or the fault the machine stops with. -/
abbrev Res (α : Type) := Except Fault α

/-- What an instruction's meaning answers. -/
abbrev Out := Host.Outcome State Fault Refusal

/-- The outcome of a meaning. -/
def finish : Res State → Out
  | .ok s => .next s
  | .error f => .fault f

/-! ### Memory -/

/-- The byte a memory holds at an address, none where it holds no value (R93). -/
def Memory.get : Memory → Nat → Option Byte
  | [], _ => none
  | (k, v) :: rest, a => if k = a then some v else Memory.get rest a

/-- A memory with one byte written, in canonical form again (R71). -/
def Memory.set : Memory → Nat → Byte → Memory
  | [], a, b => [(a, b)]
  | (k, v) :: rest, a, b =>
    if a < k then (a, b) :: (k, v) :: rest
    else if a = k then (a, b) :: rest
    else (k, v) :: Memory.set rest a b

/-- The memory a list of cells describes, in canonical form; a later cell counts over an earlier one, and
a cell outside the address space is left out. -/
def Memory.ofCells (cells : List Host.Cell) : Memory :=
  cells.foldl (fun m c => if c.1 < 65536 then Memory.set m c.1 c.2 else m) []

/-- What an address of plain memory reads as, without any effect: the last value written, else the initial
contents, a free byte of the address (R71, R93, log 7). -/
def State.peek (s : State) (a : Addr) : Byte :=
  match Memory.get s.mem a.toNat with
  | some v => v
  | none => Config.initialByte a.toNat

/-! ### The platform's interrupt sources -/

/-- A source's request or enable bit lies at this address (R310). -/
def Source.occupies (c : Source) (a : Addr) : Bool := c.requestAddr == a || c.enableAddr == a

/-- A source is pending when its request bit and its enable bit are 1 (R310). -/
def Line.pending (l : Line) : Bool := l.request && l.enable

/-- The byte an I/O location reads as, with the request and enable bit of a source shown in their places
(R310). -/
def Line.shownIn (l : Line) (a : Addr) (v : Byte) : Byte :=
  let v := if l.src.requestAddr = a then putBit v l.src.requestBit.toNat l.request else v
  if l.src.enableAddr = a then putBit v l.src.enableBit.toNat l.enable else v

/-- A store to this address may change the source's bits: one of them lies there, or the platform says so
(R71, R310). -/
def Source.reached (c : Source) (a : Addr) : Bool := Source.occupies c a || c.reachedFrom.contains a

/-- A source after a byte is stored to an I/O address, the n-th draw being what the platform makes of it where
it says that the store reaches the source (R71, D12, log 8). Whatever the platform says, writing 0 to the
request bit clears it, and the enable bit takes the value written to it; writing 1 to the request bit sets it
only where the platform says so (R310, R311, log 12). DESIGN CHOICE, unsafe: where both bits lie in one byte
they change at once, so that one store that clears the request and sets the enable bit leaves nothing pending;
the spurious interrupt of R353 comes from a new request only (log 46). -/
def Line.stored (l : Line) (n : Nat) (a : Addr) (v : Byte) : Line :=
  let free := Config.ioStore n l.src
  let reached := l.src.reachedFrom.contains a
  { l with
    request := if l.src.requestAddr = a then
        bitOf v l.src.requestBit.toNat &&
          (if reached then free.1 else l.request || l.src.writeSetsRequest)
      else if reached then free.1 else l.request
    enable := if l.src.enableAddr = a then bitOf v l.src.enableBit.toNat
      else if reached then free.2 else l.enable }

/-- `Accept(src)`: the platform clears the request bit or leaves it (R311, log 11). -/
def Line.accepted (l : Line) : Line := { l with request := l.request && !l.src.acceptClears }

/-- `Accept(src)` on the sources as they are `now`, for the source that was pending with the highest priority
when they were `seen` (R311, R312, R323). -/
def acceptFirst (seen now : List Line) : List Line :=
  match seen.findIdx? Line.pending with
  | some k => now.modify k Line.accepted
  | none => now

/-- The pending source of highest priority (R312, R313). -/
def State.firstPending (s : State) : Option Line := s.lines.find? Line.pending

/-! ### Byte accesses -/

/-- What the memory map says of an address: the first region that holds it, else plain memory (R82,
log 6). -/
def kindInMap : List Region → Nat → RegionKind
  | [], _ => .ram
  | r :: rest, a => if r.base ≤ a ∧ a < r.base + r.size then r.kind else kindInMap rest a

/-- What the platform declares an address to be: an address that holds an interrupt request or enable bit
is I/O, any other is what the map says (R71, R82). -/
def State.kindAt (s : State) (a : Addr) : RegionKind :=
  if s.lines.any fun l => Source.occupies l.src a then .io else kindInMap s.cfg.map a.toNat

/-- `MemRead(addr, 1)` (R71): plain memory and ROM read as they hold; an I/O location reads as a free draw
with the request and enable bits in their places; an unimplemented address stops the model (U10). -/
def State.read (s : State) (a : Addr) : Res (Byte × State) :=
  match s.kindAt a with
  | .ram | .rom _ => .ok (s.peek a, s)
  | .io => .ok (s.lines.foldl (fun v l => l.shownIn a v) (Config.ioByte s.draws a), s.draw 1)
  | .unimplemented => .error (.unimplementedAddress a)

/-- `MemWrite(addr, 1, v)` (R71, U10): plain memory takes the byte; an I/O location changes the request
and enable bits it holds, and those the platform says a store there reaches, by a draw; ROM takes nothing. A store that happens is remembered for the hazards of the
next instruction. -/
def State.write (s : State) (a : Addr) (v : Byte) : Res State :=
  match s.kindAt a with
  | .ram => .ok ((s.setMem (Memory.set s.mem a.toNat v)).setLastWrites (a :: s.lastWrites))
  | .io =>
    .ok (((s.setLines (s.lines.map fun l => l.stored s.draws a v)).setLastWrites (a :: s.lastWrites)).draw 1)
  | .rom true => .ok s
  | .rom false => .error (.romWrite a)
  | .unimplemented => .error (.unimplementedAddress a)

/-! ### The stack -/

/-- The high-order byte of every stack address (R80). -/
def pageByte : StackPage → Byte
  | .page0 => 0x00
  | .page1 => 0x01

/-- The address the stack pointer designates, `STACK_PAGE : S` (R33). -/
def State.stackAddr (s : State) : Addr := joinBytes (pageByte s.cfg.stackPage) s.sp

/-- `Push(v)`: stores at `STACK_PAGE : S`, then decrements S (R37). -/
def State.push (s : State) (v : Byte) : Res State := do
  let s ← s.write s.stackAddr v
  return s.setSp (s.sp - 1)

/-- `Pull()`: increments S, then reads `STACK_PAGE : S` (R38). -/
def State.pull (s : State) : Res (Byte × State) :=
  (s.setSp (s.sp + 1)).read (s.setSp (s.sp + 1)).stackAddr

/-- Pushes a 16-bit value, high-order byte first (R72). -/
def State.pushWord (s : State) (v : Addr) : Res State := do
  let s ← s.push (highByte v)
  s.push (lowByte v)

/-- Pulls a 16-bit value, low-order byte first (R72). -/
def State.pullWord (s : State) : Res (Addr × State) := do
  let (lo, s) ← s.pull
  let (hi, s) ← s.pull
  return (joinBytes hi lo, s)

/-! ### The course of an instruction -/

/-- `PC <- pc_next`, the address after the `n` bytes of the instruction (R35, R160). The hazards of the
instruction before end here: what this instruction needs of them it takes from the state before. -/
def State.advance (s : State) (n : Nat) : State :=
  ((s.setPc (s.pc + BitVec.ofNat 16 n)).setAfterDecimal false).setLastWrites []

/-- Reads a 16-bit vector table entry, low-order byte first (R72, R81, D2). -/
def State.readVector (s : State) (vec : Addr) : Res (Addr × State) := do
  let (lo, s) ← s.read vec
  let (hi, s) ← s.read (vec + 1)
  return (joinBytes hi lo, s)

/-! ### Taking an interrupt and returning -/

/-- The first half of the interrupt entry sequence: B takes its value, then PCH, PCL and PS are pushed
(R320). -/
def State.enterPushes (s : State) (b : Bool) : Res State := do
  let s ← (s.setFlag .b b).pushWord s.pc
  s.push s.ps.toByte

/-- The second half: I becomes 1 and PC takes the contents of the vector table entry (R320). -/
def State.enterVector (s : State) (vec : Addr) : Res State := do
  let (target, s) ← (s.setFlag .i true).readVector vec
  return s.setPc target

/-- The interrupt entry sequence `Interrupt(vec, b)` (R320): the return address is PC as it stands. -/
def State.enter (s : State) (vec : Addr) (b : Bool) : Res State := do
  let s ← s.enterPushes b
  s.enterVector vec

/-- The acceptance of the pending source of highest priority (R312): `Accept(src)`, then the entry sequence
with B = 0. An entry ends the hazard of a late decimal carry, as R350 says of it. It is no instruction, so that
the stores of the instruction before stay remembered, with its own pushes (R352, U11; logs 20, 21). -/
def State.acceptInterrupt (s : State) (l : Line) : Res State := do
  let s ← (s.setLines (acceptFirst s.lines s.lines)).enter l.src.vector false
  return s.setAfterDecimal false

/-- The software interrupt of BRK at `a`, with PC already `a + 2` (R290). With I = 1 and a source pending
one of two outcomes is drawn: the BRK as written, or its pushes and then `Accept` and the vector of the
source that was pending before them, whatever the pushes have stored (R323, log 22). -/
def State.softwareInterrupt (s : State) : Res State :=
  match s.flag .i, s.firstPending with
  | true, some l => do
    let t ← (s.draw 1).enterPushes true
    if Config.freeBit s.draws then (t.setLines (acceptFirst s.lines t.lines)).enterVector l.src.vector
    else t.enterVector t.cfg.brkVector
  | _, _ => s.enter s.cfg.brkVector true

/-- The return from interrupt: PS, then PCL, then PCH are pulled, and PC is not adjusted (R273, R324). -/
def State.returnFromInterrupt (s : State) : Res State := do
  let (p, s) ← s.pull
  let (target, s) ← (s.setPs (Status.ofByte p)).pullWord
  return s.setPc target

/-! ### Reset -/

/-- Where PC comes from at a reset: the `RESET_VECTOR` entry, low-order byte first; where an entry byte
holds no value, the reset entry address (R340, log 4). -/
def resetTarget (c : Config) (m : Memory) : Addr :=
  match Memory.get m c.resetVector.toNat, Memory.get m (c.resetVector + 1).toNat with
  | some lo, some hi => joinBytes hi lo
  | _, _ => c.resetEntry

/-- The request and enable bits after a reset, source by source; a source with no entry keeps its bits
(R341). -/
def resetLines : List Line → List (Bool × Bool) → List Line
  | [], _ => []
  | l :: rest, [] => l :: rest
  | l :: rest, (r, e) :: bits => { l with request := r, enable := e } :: resetLines rest bits

/-- Reset (R340): I becomes 1, the run state `running`, PC the reset entry; nothing is pushed; what is
indeterminate or the platform's comes from the platform (log 14). -/
def State.takeReset (s : State) (v : ResetValues) : State :=
  { s with
    a := v.a
    x := v.x
    y := v.y
    sp := v.sp
    ps := (Status.ofByte v.ps).set .i true
    pc := resetTarget s.cfg (Memory.ofCells v.image)
    run := .running
    mem := Memory.ofCells v.image
    lines := resetLines s.lines v.bits
    afterDecimal := false
    lastWrites := [] }

end Sys2Proof.Machine
end

