-- ==== Sys2Proof/Machine/Fetch.lean ====
section
/-!
DEFINITION. Fetching an instruction (R34, R73, R84, R87), and placing one where it is fetched.
-/

namespace Sys2Proof.Machine

/-- One byte of an instruction: an ordinary byte read (R87). A byte that the instruction executed directly
before stored to is a free draw (U11, log 21). -/
def State.fetchByte (s : State) (a : Addr) : Res (Byte × State) :=
  if s.lastWrites.contains a then .ok (Config.freeByte s.draws, s.draw 1) else s.read a

/-- `n` bytes of an instruction at ascending addresses from `a` on (R73, R95). -/
def State.fetchBytes : Nat → Addr → State → Res (List Byte × State)
  | 0, _, s => .ok ([], s)
  | n + 1, a, s => do
    let (b, s) ← s.fetchByte a
    let (bs, s) ← State.fetchBytes n (a + 1) s
    return (b :: bs, s)

/-- The length of the instruction an operation code begins on this product, none where the code is undefined:
those of R112, and those of MUL and DIV on a product without them (R113). -/
def State.opLength (s : State) (op : Byte) : Option Nat :=
  if !s.cfg.hasMulDiv && (op == 0x62 || op == 0xE2) then none else Sys2Proof.opLength op

/-- The instruction at PC and the state after its bytes are fetched, no byte more than it has; a first byte
with no instruction assigned stops the model before any other is read (R103, R112, R113). PC does not move: the
instruction's meaning moves it (R160). -/
def State.fetch (s : State) : Res (Instr × State) := do
  let (op, s1) ← s.fetchByte s.pc
  match s1.opLength op with
  | none => .error (.undefinedOpcode op)
  | some n => do
    let (bs, s2) ← s1.fetchBytes (n - 1) (s.pc + 1)
    match decode (op :: bs) with
    | .ok (i, _) => return (i, s2)
    | .error _ => .error (.undefinedOpcode op)

/-- The addresses of the `n` bytes from `a` on. -/
def addressesFrom : Nat → Addr → List Addr
  | 0, _ => []
  | n + 1, a => a :: addressesFrom n (a + 1)

/-- A memory with bytes placed at ascending addresses. -/
def Memory.setBytes : Memory → Addr → List Byte → Memory
  | m, _, [] => m
  | m, a, b :: bs => Memory.setBytes (Memory.set m a.toNat b) (a + 1) bs

/-- A plain memory region of one address. -/
def ramAt (a : Addr) : Region := { base := a.toNat, size := 1, kind := .ram }

/-- An address the map declares plain memory or read-only memory. -/
def fetchable (map : List Region) (a : Addr) : Bool :=
  match kindInMap map a.toNat with
  | .ram | .rom _ => true
  | .io | .unimplemented => false

/-- The memory map with these addresses plain memory, unchanged where they can be fetched from already. -/
def mapToFetch (map : List Region) (as : List Addr) : List Region :=
  if as.all (fetchable map) then map else as.map ramAt ++ map

/-- The interrupt sources when the next step is to fetch at these addresses: none of their bits lies there,
and none would be accepted first. -/
def linesToFetch (masked : Bool) (lines : List Line) (as : List Addr) : List Line :=
  (lines.filter fun l => !as.any (Source.occupies l.src)).map fun l => { l with request := l.request && masked }

/-- The state with bytes placed at PC, where the next step fetches, and with all that the fetch needs:
the run state `running`, no input and no acceptable interrupt that comes first, and addresses that can be
fetched from (log 36). -/
def State.placeInstruction (s : State) (bs : List Byte) : State :=
  let as := addressesFrom bs.length s.pc
  { s with
    run := .running
    mem := Memory.setBytes s.mem s.pc bs
    lines := linesToFetch (s.flag .i) s.lines as
    cfg := { s.cfg with map := mapToFetch s.cfg.map as }
    inputs := []
    lastWrites := s.lastWrites.filter fun a => !as.contains a }

end Sys2Proof.Machine
end

