-- ==== Sys2Proof/Machine/Boundary.lean ====
section
/-!
DEFINITION. What happens at an instruction boundary: the platform's input, waking, the acceptance of an
interrupt, or the fetch of the next instruction (R312, R313, R326, R340).
-/

namespace Sys2Proof.Machine

/-- What a step does: it is done in a state (an interrupt entry, a reset, time passing in the wait or stop
state), it stops, or it executes an instruction in the state after the fetch. -/
inductive Turn where
  | done (t : State)
  | stop (f : Fault)
  | execute (i : Instr) (t : State)

/-- An operation that makes up a whole step. -/
def Turn.ofRes : Res State → Turn
  | .ok t => .done t
  | .error f => .stop f

/-- The request bits after the hardware raises the requests of the sources at these places, the list
beginning at place `n` (R310). DESIGN CHOICE, unsafe: between instructions the platform raises requests and
does no more; it withdraws none and changes no enable bit (log 45). -/
def raiseFrom (ks : List Nat) : Nat → List Line → List Line
  | _, [] => []
  | n, l :: rest => { l with request := l.request || ks.contains n } :: raiseFrom ks (n + 1) rest

/-- The source an interrupt is accepted from at this boundary: with I = 0 the pending source of highest
priority (R312). -/
def State.acceptable (s : State) : Option Line := if s.flag .i then none else s.firstPending

/-- A wake event ends the wait or stop state whatever I is, or only with I = 0 (R326, D17). -/
def State.mayWake (s : State) : Bool := !s.cfg.wakeNeedsAccept || !s.flag .i

/-- A wake event is there: any pending source in the wait state, a pending external one in the stop state
(R326). -/
def State.wakes (s : State) : Bool :=
  match s.run with
  | .running => false
  | .waiting => s.lines.any Line.pending && s.mayWake
  | .stopped => (s.lines.any fun l => l.pending && l.src.external) && s.mayWake

/-- A boundary in the run state `running` (R312): the acceptance of an interrupt, or the fetch. -/
def State.proceed (s : State) : Turn :=
  match s.acceptable with
  | some l => Turn.ofRes (s.acceptInterrupt l)
  | none =>
    match s.fetch with
    | .ok (i, t) => .execute i t
    | .error f => .stop f

/-- A boundary after the platform's input: the CPU runs, or wakes and runs (R326, log 23), or time passes;
with no input left that could wake it the run has ended (U18). -/
def State.boundary (s : State) (more : Bool) : Turn :=
  if s.run == .running || s.wakes then (s.setRun .running).proceed
  else if more then .done s
  else .stop .noWakeEvent

/-- One step's turn: the platform's next input is taken first; reset overrides everything (R313, R340).
DESIGN CHOICE, safe: the input may raise the request of any source in any run state, an internal one in the stop
state too, although no peripheral clocked by the oscillator advances there (R292, log 47). -/
def State.turn (s : State) : Turn :=
  match s.inputs with
  | [] => s.boundary false
  | .reset v :: rest => .done ((s.setInputs rest).takeReset v)
  | .requests ks :: rest =>
    ((s.setInputs rest).setLines (raiseFrom ks 0 s.lines)).boundary true

end Sys2Proof.Machine
end

