-- ==== Sys2Proof/Machine/Operands.lean ====
section
/-!
DEFINITION. The addressing modes and operand access: effective addresses, `Operand()`, the
read-modify-write operand, M(X), pointers and branch targets (R130 to R154, R275).
-/

namespace Sys2Proof.Machine

/-- `zext_16(v)` (R11); also the zero page address `0x00 : v` (R105, R132). -/
def zext16 (v : Byte) : Addr := joinBytes 0 v

/-- `sext_16(v)`, a byte as a signed number (R11, R107). -/
def sext16 (v : Byte) : Addr := v.signExtend 16

/-- `NextZP(p)`, the zero page location after offset `p`: inside the zero page where `ZP_PTR_WRAP` is true
(R153). -/
def State.nextZp (s : State) (p : Byte) : Addr :=
  if s.cfg.zpPtrWrap then zext16 (p + 1) else zext16 p + 1

/-- The 16-bit pointer whose low-order byte is at zero page offset `p` and whose high-order byte is at the
next zero page location (R140, R141, R143). -/
def State.zpPointer (s : State) (p : Byte) : Res (Addr × State) := do
  let (lo, s) ← s.read (zext16 p)
  let (hi, s) ← s.read (s.nextZp p)
  return (joinBytes hi lo, s)

/-- The effective address of a memory operand (R132 to R137, R140, R141). -/
def State.ea (s : State) : MemMode → Res (Addr × State)
  | .zp zz => .ok (zext16 zz, s)
  | .zpX zz => .ok (zext16 (zz + s.x), s)
  | .zpY zz => .ok (zext16 (zz + s.y), s)
  | .abs hhll => .ok (hhll, s)
  | .absX hhll => .ok (hhll + zext16 s.x, s)
  | .absY hhll => .ok (hhll + zext16 s.y, s)
  | .indX zz => s.zpPointer (zz + s.x)
  | .indY zz => do
    let (p, s) ← s.zpPointer zz
    return (p + zext16 s.y, s)

/-- `Operand()`: the immediate byte, or the byte at the effective address (R151). -/
def State.operand (s : State) : Src → Res (Byte × State)
  | .imm nn => .ok (nn, s)
  | .mem m => do
    let (a, s) ← s.ea m
    s.read a

/-- `StoreOperand(v)`: stores to the effective address (R151). -/
def State.storeOperand (s : State) (m : MemMode) (v : Byte) : Res State := do
  let (a, s) ← s.ea m
  s.write a v

/-- A read-modify-write: the old byte `v` of the operand becomes `f v` in the same place, the effective
address computed once; then `g` sets what flags the instruction has from the old and the new byte
(R151). -/
def State.modify (s : State) (l : Loc) (f : Byte → Byte) (g : State → Byte → Byte → State) :
    Res State :=
  match l with
  | .acc => .ok (g (s.setA (f s.a)) s.a (f s.a))
  | .mem m => do
    let (a, s) ← s.ea m
    let (v, s) ← s.read a
    let s ← s.write a (f v)
    return g s v (f v)

/-- An instruction of one byte whose result goes to the register `put` writes, with N and Z: the register
transfers and the increments and decrements of X and Y (R168 to R172, R198 to R201). -/
def registerOp (put : State → Byte → State) (v : Byte) (s : State) : State :=
  (put (s.advance 1) v).setNZ v

/-- The address of M(X) (R152). -/
def State.mxAddr (s : State) : Addr := zext16 s.x

/-- `DestRead()`: A where T = 0, M(X) where T = 1 (R152). -/
def State.destRead (s : State) : Res (Byte × State) :=
  if s.flag .t then s.read s.mxAddr else .ok (s.a, s)

/-- `DestWrite(v)`: A where T = 0, M(X) where T = 1 (R152). -/
def State.destWrite (s : State) (v : Byte) : Res State :=
  if s.flag .t then s.write s.mxAddr v else .ok (s.setA v)

/-- The target of a branch whose following instruction is at `next` (R275). -/
def branchTarget (next : Addr) (rr : Byte) : Addr := next + sext16 rr

/-- `BranchIf(cond)`, with PC already the address of the next instruction (R275). -/
def State.branchIf (s : State) (cond : Bool) (rr : Byte) : State :=
  s.setPc (if cond then branchTarget s.pc rr else s.pc)

/-- The pointer of `JMP ($hhll)`: low-order byte at the address, high-order byte at the next (R142). -/
def State.absPointer (s : State) (p : Addr) : Res (Addr × State) := do
  let (lo, s) ← s.read p
  let (hi, s) ← s.read (p + 1)
  return (joinBytes hi lo, s)

end Sys2Proof.Machine
end

