-- ==== Sys2Proof/Machine/Arithmetic.lean ====
section
/-!
DEFINITION. Arithmetic: ADC, SBC, INC, DEC, INX, DEX, INY, DEY, MUL, DIV (R190 to R203).
-/

namespace Sys2Proof.Machine

/-- What ADC and SBC compute: the binary adder `bin` where D = 0, the decimal one `dec` where D = 1
(R194, R195). -/
def State.adder (s : State) (bin : Byte → Byte → Bool → AluResult)
    (dec : Nat → Byte → Byte → Bool → AluResult) (m1 m2 : Byte) : AluResult :=
  if s.flag .d then dec s.draws m1 m2 (s.flag .c) else bin m1 m2 (s.flag .c)

/-- ADC and SBC: the operand is read first, then A or M(X); the result goes back to A or M(X); N, V, Z and C
are written (R194, R195). In decimal mode free values are counted and the carry settles late (R350). -/
def addSubOp (bin : Byte → Byte → Bool → AluResult) (dec : Nat → Byte → Byte → Bool → AluResult)
    (o : Src) (s : State) : Res State := do
  let (m2, s) ← (s.advance o.len).operand o
  let (m1, s) ← s.destRead
  let q := s.adder bin dec m1 m2
  let s ← (s.draw (if s.flag .d then decimalDraws else 0)).destWrite q.r
  return (s.setNVZC q).setAfterDecimal (s.flag .d)

/-- ADC (R194). -/
def adcOp (o : Src) (s : State) : Res State := addSubOp addBin addDec o s

/-- SBC (R195). -/
def sbcOp (o : Src) (s : State) : Res State := addSubOp subBin subDec o s

/-- INC: plus 1 modulo 256; N and Z (R196). -/
def incOp (l : Loc) (s : State) : Res State :=
  (s.advance l.len).modify l (fun v => v + 1) fun s _ r => s.setNZ r

/-- DEC: minus 1 modulo 256; N and Z (R197). -/
def decOp (l : Loc) (s : State) : Res State :=
  (s.advance l.len).modify l (fun v => v - 1) fun s _ r => s.setNZ r

/-- The product of two unsigned bytes (R202, log 30). -/
def product (p q : Byte) : Addr := BitVec.ofNat 16 (p.toNat * q.toNat)

/-- MUL: the high-order byte of the product is pushed, the low-order byte goes to A; no flag (R202). Without
MUL the operation code is undefined (R113). -/
def mulOp (zz : Byte) (s : State) : Res State :=
  if s.cfg.hasMulDiv then do
    let (m, s) ← (s.advance 2).read (zext16 (zz + s.x))
    let p := product s.a m
    let s ← s.push (highByte p)
    return s.setA (lowByte p)
  else .error (.undefinedOpcode 0x62)

/-- The quotient and the pushed byte of DIV for an unsigned dividend and divisor: quotient and one's
complement of the remainder, or two free draws where the divisor is 0 or the quotient exceeds 255 (R203). -/
def divide (k : Nat) (n : Addr) (d : Byte) : Byte × Byte :=
  if d.toNat = 0 ∨ 255 < n.toNat / d.toNat then (Config.freeByte k, Config.freeByte (k + 1))
  else (BitVec.ofNat 8 (n.toNat / d.toNat), ~~~BitVec.ofNat 8 (n.toNat % d.toNat))

/-- DIV draws two free values where it has no stated result (R203). -/
def divideDraws (n : Addr) (d : Byte) : Nat :=
  if d.toNat = 0 ∨ 255 < n.toNat / d.toNat then 2 else 0

/-- DIV: the 16-bit dividend at the zero page location and the next one, by A; one's complement of the
remainder is pushed, the quotient goes to A; no flag (R203). Without DIV the operation code is undefined
(R113). -/
def divOp (zz : Byte) (s : State) : Res State :=
  if s.cfg.hasMulDiv then do
    let (n, s) ← (s.advance 2).zpPointer (zz + s.x)
    let q := divide s.draws n s.a
    let s ← (s.draw (divideDraws n s.a)).push q.2
    return s.setA q.1
  else .error (.undefinedOpcode 0xE2)

/-- `ADC ($zz,X)` (R194, R140). -/
def execAdcIndX (zz : Byte) (s : State) : Out := finish (adcOp (.mem (.indX zz)) s)

/-- `ADC $zz` (R194, R132). -/
def execAdcZp (zz : Byte) (s : State) : Out := finish (adcOp (.mem (.zp zz)) s)

/-- `ADC #$nn` (R194, R131). -/
def execAdcImm (nn : Byte) (s : State) : Out := finish (adcOp (.imm nn) s)

/-- `ADC $hhll` (R194, R135). -/
def execAdcAbs (hhll : Addr) (s : State) : Out := finish (adcOp (.mem (.abs hhll)) s)

/-- `ADC ($zz),Y` (R194, R141). -/
def execAdcIndY (zz : Byte) (s : State) : Out := finish (adcOp (.mem (.indY zz)) s)

/-- `ADC $zz,X` (R194, R133). -/
def execAdcZpX (zz : Byte) (s : State) : Out := finish (adcOp (.mem (.zpX zz)) s)

/-- `ADC $hhll,Y` (R194, R137). -/
def execAdcAbsY (hhll : Addr) (s : State) : Out := finish (adcOp (.mem (.absY hhll)) s)

/-- `ADC $hhll,X` (R194, R136). -/
def execAdcAbsX (hhll : Addr) (s : State) : Out := finish (adcOp (.mem (.absX hhll)) s)

/-- `SBC ($zz,X)` (R195, R140). -/
def execSbcIndX (zz : Byte) (s : State) : Out := finish (sbcOp (.mem (.indX zz)) s)

/-- `SBC $zz` (R195, R132). -/
def execSbcZp (zz : Byte) (s : State) : Out := finish (sbcOp (.mem (.zp zz)) s)

/-- `SBC #$nn` (R195, R131). -/
def execSbcImm (nn : Byte) (s : State) : Out := finish (sbcOp (.imm nn) s)

/-- `SBC $hhll` (R195, R135). -/
def execSbcAbs (hhll : Addr) (s : State) : Out := finish (sbcOp (.mem (.abs hhll)) s)

/-- `SBC ($zz),Y` (R195, R141). -/
def execSbcIndY (zz : Byte) (s : State) : Out := finish (sbcOp (.mem (.indY zz)) s)

/-- `SBC $zz,X` (R195, R133). -/
def execSbcZpX (zz : Byte) (s : State) : Out := finish (sbcOp (.mem (.zpX zz)) s)

/-- `SBC $hhll,Y` (R195, R137). -/
def execSbcAbsY (hhll : Addr) (s : State) : Out := finish (sbcOp (.mem (.absY hhll)) s)

/-- `SBC $hhll,X` (R195, R136). -/
def execSbcAbsX (hhll : Addr) (s : State) : Out := finish (sbcOp (.mem (.absX hhll)) s)

/-- `INC A` (R196, R138). -/
def execIncAcc (s : State) : Out := finish (incOp .acc s)

/-- `INC $zz` (R196, R132). -/
def execIncZp (zz : Byte) (s : State) : Out := finish (incOp (.mem (.zp zz)) s)

/-- `INC $hhll` (R196, R135). -/
def execIncAbs (hhll : Addr) (s : State) : Out := finish (incOp (.mem (.abs hhll)) s)

/-- `INC $zz,X` (R196, R133). -/
def execIncZpX (zz : Byte) (s : State) : Out := finish (incOp (.mem (.zpX zz)) s)

/-- `INC $hhll,X` (R196, R136). -/
def execIncAbsX (hhll : Addr) (s : State) : Out := finish (incOp (.mem (.absX hhll)) s)

/-- `DEC A` (R197, R138). -/
def execDecAcc (s : State) : Out := finish (decOp .acc s)

/-- `DEC $zz` (R197, R132). -/
def execDecZp (zz : Byte) (s : State) : Out := finish (decOp (.mem (.zp zz)) s)

/-- `DEC $hhll` (R197, R135). -/
def execDecAbs (hhll : Addr) (s : State) : Out := finish (decOp (.mem (.abs hhll)) s)

/-- `DEC $zz,X` (R197, R133). -/
def execDecZpX (zz : Byte) (s : State) : Out := finish (decOp (.mem (.zpX zz)) s)

/-- `DEC $hhll,X` (R197, R136). -/
def execDecAbsX (hhll : Addr) (s : State) : Out := finish (decOp (.mem (.absX hhll)) s)

/-- `INX` (R198, R139). -/
def execInx (s : State) : Out := .next (registerOp State.setX (s.x + 1) s)

/-- `DEX` (R199, R139). -/
def execDex (s : State) : Out := .next (registerOp State.setX (s.x - 1) s)

/-- `INY` (R200, R139). -/
def execIny (s : State) : Out := .next (registerOp State.setY (s.y + 1) s)

/-- `DEY` (R201, R139). -/
def execDey (s : State) : Out := .next (registerOp State.setY (s.y - 1) s)

/-- `MUL $zz,X` (R202, R133). -/
def execMul (zz : Byte) (s : State) : Out := finish (mulOp zz s)

/-- `DIV $zz,X` (R203, R133). -/
def execDiv (zz : Byte) (s : State) : Out := finish (divOp zz s)

end Sys2Proof.Machine
end

