-- ==== Sys2Proof/Machine/BitFlag.lean ====
section
/-!
DEFINITION. Bit management and flag setting: CLB, SEB, CLC, SEC, CLD, SED, CLI, SEI, CLT, SET, CLV (R240 to
R250).
-/

namespace Sys2Proof.Machine

/-- CLB and SEB on A: bit `i` takes the value `b`; no flag (R240, R241). -/
def bitAccOp (b : Bool) (i : BitNo) (s : State) : State :=
  let s := s.advance 1
  s.setA (putBit s.a i.toNat b)

/-- CLB and SEB on a zero page byte: it is read and written back with bit `i` changed; no flag (R240,
R241). -/
def bitZpOp (b : Bool) (i : BitNo) (zz : Byte) (s : State) : Res State :=
  (s.advance 2).modify (.mem (.zp zz)) (fun v => putBit v i.toNat b) fun s _ _ => s

/-- A flag instruction: one flag takes a value, nothing else changes (R242 to R250). -/
def flagOp (f : Flag) (b : Bool) (s : State) : State := (s.advance 1).setFlag f b

/-- CLC and SEC: C takes the value; directly after an ADC or SBC with D = 1 it is a free draw (R242, R243,
R350, R357). -/
def carryOp (b : Bool) (s : State) : State :=
  if s.afterDecimal then ((s.advance 1).draw 1).setFlag .c (Config.freeBit s.draws) else flagOp .c b s

/-- CLD: D becomes 0; directly after an ADC or SBC with D = 1 both D and C are free draws (R244, R350,
R357). -/
def cldOp (s : State) : State :=
  if s.afterDecimal then
    (((s.advance 1).draw 2).setFlag .d (Config.freeBit s.draws)).setFlag .c
      (Config.freeBit (s.draws + 1))
  else flagOp .d false s

/-- `CLB i,A` (R240, R147). -/
def execClbAcc (i : BitNo) (s : State) : Out := .next (bitAccOp false i s)

/-- `CLB i,$zz` (R240, R146). -/
def execClbZp (i : BitNo) (zz : Byte) (s : State) : Out := finish (bitZpOp false i zz s)

/-- `SEB i,A` (R241, R147). -/
def execSebAcc (i : BitNo) (s : State) : Out := .next (bitAccOp true i s)

/-- `SEB i,$zz` (R241, R146). -/
def execSebZp (i : BitNo) (zz : Byte) (s : State) : Out := finish (bitZpOp true i zz s)

/-- `CLC` (R242, R139). -/
def execClc (s : State) : Out := .next (carryOp false s)

/-- `SEC` (R243, R139). -/
def execSec (s : State) : Out := .next (carryOp true s)

/-- `CLD` (R244, R139). -/
def execCld (s : State) : Out := .next (cldOp s)

/-- `SED` (R245, R139). -/
def execSed (s : State) : Out := .next (flagOp .d true s)

/-- `CLI` (R246, R139). -/
def execCli (s : State) : Out := .next (flagOp .i false s)

/-- `SEI` (R247, R139). -/
def execSei (s : State) : Out := .next (flagOp .i true s)

/-- `CLT` (R248, R139). -/
def execClt (s : State) : Out := .next (flagOp .t false s)

/-- `SET` (R249, R139). -/
def execSet (s : State) : Out := .next (flagOp .t true s)

/-- `CLV` (R250, R139). -/
def execClv (s : State) : Out := .next (flagOp .v false s)

end Sys2Proof.Machine
end

