-- ==== Sys2Proof/Machine/DataTransfer.lean ====
section
/-!
DEFINITION. Data transfer: LDA, LDM, LDX, LDY, STA, STX, STY, TAX, TXA, TAY, TYA, TSX, TXS, PHA, PHP, PLA,
PLP (R160 to R177).
-/

namespace Sys2Proof.Machine

/-- LDA: the operand goes to A, or to M(X) where T = 1 without M(X) being read (R161, R154). -/
def ldaOp (o : Src) (s : State) : Res State := do
  let (v, s) ← (s.advance o.len).operand o
  let s ← s.destWrite v
  return s.setNZ v

/-- LDX and LDY: the operand goes to the register `put` writes (R163, R164). -/
def loadOp (put : State → Byte → State) (o : Src) (s : State) : Res State := do
  let (v, s) ← (s.advance o.len).operand o
  return (put s v).setNZ v

/-- STA, STX and STY: the register `get` reads is stored, and the target byte is not read (R165 to R167). -/
def storeOp (get : State → Byte) (m : MemMode) (s : State) : Res State :=
  (s.advance m.len).storeOperand m (get s)

/-- LDM: the immediate byte goes to the zero page byte (R162). -/
def ldmOp (nn zz : Byte) (s : State) : Res State := (s.advance 3).write (zext16 zz) nn

/-- PLA: the pulled byte goes to A, whatever T is (R176). -/
def plaOp (s : State) : Res State := do
  let (v, s) ← (s.advance 1).pull
  return (s.setA v).setNZ v

/-- PLP: all eight flags come from the pulled byte (R177). -/
def plpOp (s : State) : Res State := do
  let (v, s) ← (s.advance 1).pull
  return s.setPs (Status.ofByte v)

/-- `LDA ($zz,X)` (R161, R140). -/
def execLdaIndX (zz : Byte) (s : State) : Out := finish (ldaOp (.mem (.indX zz)) s)

/-- `LDA $zz` (R161, R132). -/
def execLdaZp (zz : Byte) (s : State) : Out := finish (ldaOp (.mem (.zp zz)) s)

/-- `LDA #$nn` (R161, R131). -/
def execLdaImm (nn : Byte) (s : State) : Out := finish (ldaOp (.imm nn) s)

/-- `LDA $hhll` (R161, R135). -/
def execLdaAbs (hhll : Addr) (s : State) : Out := finish (ldaOp (.mem (.abs hhll)) s)

/-- `LDA ($zz),Y` (R161, R141). -/
def execLdaIndY (zz : Byte) (s : State) : Out := finish (ldaOp (.mem (.indY zz)) s)

/-- `LDA $zz,X` (R161, R133). -/
def execLdaZpX (zz : Byte) (s : State) : Out := finish (ldaOp (.mem (.zpX zz)) s)

/-- `LDA $hhll,Y` (R161, R137). -/
def execLdaAbsY (hhll : Addr) (s : State) : Out := finish (ldaOp (.mem (.absY hhll)) s)

/-- `LDA $hhll,X` (R161, R136). -/
def execLdaAbsX (hhll : Addr) (s : State) : Out := finish (ldaOp (.mem (.absX hhll)) s)

/-- `LDM #$nn,$zz` (R162, R132). -/
def execLdm (nn : Byte) (zz : Byte) (s : State) : Out := finish (ldmOp nn zz s)

/-- `LDX #$nn` (R163, R131). -/
def execLdxImm (nn : Byte) (s : State) : Out := finish (loadOp State.setX (.imm nn) s)

/-- `LDX $zz` (R163, R132). -/
def execLdxZp (zz : Byte) (s : State) : Out := finish (loadOp State.setX (.mem (.zp zz)) s)

/-- `LDX $hhll` (R163, R135). -/
def execLdxAbs (hhll : Addr) (s : State) : Out := finish (loadOp State.setX (.mem (.abs hhll)) s)

/-- `LDX $zz,Y` (R163, R134). -/
def execLdxZpY (zz : Byte) (s : State) : Out := finish (loadOp State.setX (.mem (.zpY zz)) s)

/-- `LDX $hhll,Y` (R163, R137). -/
def execLdxAbsY (hhll : Addr) (s : State) : Out := finish (loadOp State.setX (.mem (.absY hhll)) s)

/-- `LDY #$nn` (R164, R131). -/
def execLdyImm (nn : Byte) (s : State) : Out := finish (loadOp State.setY (.imm nn) s)

/-- `LDY $zz` (R164, R132). -/
def execLdyZp (zz : Byte) (s : State) : Out := finish (loadOp State.setY (.mem (.zp zz)) s)

/-- `LDY $hhll` (R164, R135). -/
def execLdyAbs (hhll : Addr) (s : State) : Out := finish (loadOp State.setY (.mem (.abs hhll)) s)

/-- `LDY $zz,X` (R164, R133). -/
def execLdyZpX (zz : Byte) (s : State) : Out := finish (loadOp State.setY (.mem (.zpX zz)) s)

/-- `LDY $hhll,X` (R164, R136). -/
def execLdyAbsX (hhll : Addr) (s : State) : Out := finish (loadOp State.setY (.mem (.absX hhll)) s)

/-- `STA ($zz,X)` (R165, R140). -/
def execStaIndX (zz : Byte) (s : State) : Out := finish (storeOp State.a (.indX zz) s)

/-- `STA $zz` (R165, R132). -/
def execStaZp (zz : Byte) (s : State) : Out := finish (storeOp State.a (.zp zz) s)

/-- `STA $hhll` (R165, R135). -/
def execStaAbs (hhll : Addr) (s : State) : Out := finish (storeOp State.a (.abs hhll) s)

/-- `STA ($zz),Y` (R165, R141). -/
def execStaIndY (zz : Byte) (s : State) : Out := finish (storeOp State.a (.indY zz) s)

/-- `STA $zz,X` (R165, R133). -/
def execStaZpX (zz : Byte) (s : State) : Out := finish (storeOp State.a (.zpX zz) s)

/-- `STA $hhll,Y` (R165, R137). -/
def execStaAbsY (hhll : Addr) (s : State) : Out := finish (storeOp State.a (.absY hhll) s)

/-- `STA $hhll,X` (R165, R136). -/
def execStaAbsX (hhll : Addr) (s : State) : Out := finish (storeOp State.a (.absX hhll) s)

/-- `STX $zz` (R166, R132). -/
def execStxZp (zz : Byte) (s : State) : Out := finish (storeOp State.x (.zp zz) s)

/-- `STX $hhll` (R166, R135). -/
def execStxAbs (hhll : Addr) (s : State) : Out := finish (storeOp State.x (.abs hhll) s)

/-- `STX $zz,Y` (R166, R134). -/
def execStxZpY (zz : Byte) (s : State) : Out := finish (storeOp State.x (.zpY zz) s)

/-- `STY $zz` (R167, R132). -/
def execStyZp (zz : Byte) (s : State) : Out := finish (storeOp State.y (.zp zz) s)

/-- `STY $hhll` (R167, R135). -/
def execStyAbs (hhll : Addr) (s : State) : Out := finish (storeOp State.y (.abs hhll) s)

/-- `STY $zz,X` (R167, R133). -/
def execStyZpX (zz : Byte) (s : State) : Out := finish (storeOp State.y (.zpX zz) s)

/-- `TAX` (R168, R139). -/
def execTax (s : State) : Out := .next (registerOp State.setX s.a s)

/-- `TXA` (R169, R139). -/
def execTxa (s : State) : Out := .next (registerOp State.setA s.x s)

/-- `TAY` (R170, R139). -/
def execTay (s : State) : Out := .next (registerOp State.setY s.a s)

/-- `TYA` (R171, R139). -/
def execTya (s : State) : Out := .next (registerOp State.setA s.y s)

/-- `TSX` (R172, R139). -/
def execTsx (s : State) : Out := .next (registerOp State.setX s.sp s)

/-- `TXS` (R173, R139). No flag. -/
def execTxs (s : State) : Out := .next ((s.advance 1).setSp s.x)

/-- `PHA` (R174, R139). -/
def execPha (s : State) : Out := finish ((s.advance 1).push s.a)

/-- `PHP` (R175, R139). All eight bits as they stand. -/
def execPhp (s : State) : Out := finish ((s.advance 1).push s.ps.toByte)

/-- `PLA` (R176, R139). -/
def execPla (s : State) : Out := finish (plaOp s)

/-- `PLP` (R177, R139). -/
def execPlp (s : State) : Out := finish (plpOp s)

end Sys2Proof.Machine
end

