-- ==== Sys2Proof/Machine/Jump.lean ====
section
/-!
DEFINITION. Jumps, branches and returns: JMP, BRA, JSR, BBC, BBS, BCC, BCS, BNE, BEQ, BPL, BMI, BVC, BVS,
RTI, RTS (R260 to R275).
-/

namespace Sys2Proof.Machine

/-- `JMP ($hhll)`: no address whose low-order byte is FF can be the indirect address (R142, R260, R355). -/
def jmpIndOp (p : Addr) (s : State) : Res State :=
  if lowByte p = 0xFF then .error .jmpIndirectPageEnd
  else do
    let (target, s) ← (s.advance 3).absPointer p
    return s.setPc target

/-- `JMP ($zz)` (R143, R260). -/
def jmpZpIndOp (zz : Byte) (s : State) : Res State := do
  let (target, s) ← (s.advance 2).zpPointer zz
  return s.setPc target

/-- A relative branch of two bytes on a condition (R261, R265 to R272, R275). -/
def branchOp (cond : Bool) (rr : Byte) (s : State) : State := (s.advance 2).branchIf cond rr

/-- JSR of `n` bytes: the address of its last byte is pushed, PCH first, then PC becomes the destination,
which the zero page indirect form reads after the pushes (R262, R95). -/
def jsrOp (n : Nat) (target : State → Res (Addr × State)) (s : State) : Res State := do
  let s ← (s.advance n).pushWord (s.pc + BitVec.ofNat 16 (n - 1))
  let (t, s) ← target s
  return s.setPc t

/-- BBC and BBS on A: the branch is taken where bit `i` has the value `b` (R263, R264). -/
def bitBranchAccOp (b : Bool) (i : BitNo) (rr : Byte) (s : State) : State :=
  (s.advance 2).branchIf (bitOf s.a i.toNat == b) rr

/-- The instruction before, or an interrupt entry after it, stored to the byte that holds this interrupt request
bit, or to an I/O address whose stores reach the source (R352, log 20). -/
def State.staleRequestBit (s : State) (a : Addr) (i : BitNo) : Bool :=
  s.lines.any fun l =>
    l.src.requestAddr == a && l.src.requestBit == i &&
      s.lastWrites.any fun w => w == a || l.src.reachedFrom.contains w

/-- BBC and BBS on a zero page byte: the branch is taken where bit `i` has the value `b`; an interrupt
request bit that the instruction before stored to is a free draw (R263, R264, R352, R357). -/
def bitBranchZpOp (b : Bool) (i : BitNo) (zz rr : Byte) (s : State) : Res State := do
  let (v, t) ← (s.advance 3).read (zext16 zz)
  if s.staleRequestBit (zext16 zz) i then
    return (t.draw 1).branchIf (Config.freeBit t.draws == b) rr
  else return t.branchIf (bitOf v i.toNat == b) rr

/-- RTS: the pulled address plus 1 (R274). -/
def rtsOp (s : State) : Res State := do
  let (target, s) ← (s.advance 1).pullWord
  return s.setPc (target + 1)

/-- `JMP $hhll` (R260, R135). -/
def execJmpAbs (hhll : Addr) (s : State) : Out := .next ((s.advance 3).setPc hhll)

/-- `JMP ($hhll)` (R260, R142). -/
def execJmpInd (hhll : Addr) (s : State) : Out := finish (jmpIndOp hhll s)

/-- `JMP ($zz)` (R260, R143). -/
def execJmpZpInd (zz : Byte) (s : State) : Out := finish (jmpZpIndOp zz s)

/-- `BRA $hhll` (R261, R145). -/
def execBra (rr : Byte) (s : State) : Out := .next (branchOp true rr s)

/-- `JSR ($zz)` (R262, R143). -/
def execJsrZpInd (zz : Byte) (s : State) : Out := finish (jsrOp 2 (fun s => s.zpPointer zz) s)

/-- `JSR $hhll` (R262, R135). -/
def execJsrAbs (hhll : Addr) (s : State) : Out := finish (jsrOp 3 (fun s => .ok (hhll, s)) s)

/-- `JSR \$hhll` (R262, R144). -/
def execJsrSp (ll : Byte) (s : State) : Out :=
  finish (jsrOp 2 (fun s => .ok (joinBytes 0xFF ll, s)) s)

/-- `BBC i,A,$hhll` (R263, R148). -/
def execBbcAcc (i : BitNo) (rr : Byte) (s : State) : Out := .next (bitBranchAccOp false i rr s)

/-- `BBC i,$zz,$hhll` (R263, R149). -/
def execBbcZp (i : BitNo) (zz : Byte) (rr : Byte) (s : State) : Out :=
  finish (bitBranchZpOp false i zz rr s)

/-- `BBS i,A,$hhll` (R264, R148). -/
def execBbsAcc (i : BitNo) (rr : Byte) (s : State) : Out := .next (bitBranchAccOp true i rr s)

/-- `BBS i,$zz,$hhll` (R264, R149). -/
def execBbsZp (i : BitNo) (zz : Byte) (rr : Byte) (s : State) : Out :=
  finish (bitBranchZpOp true i zz rr s)

/-- `BCC $hhll` (R265, R145). -/
def execBcc (rr : Byte) (s : State) : Out := .next (branchOp (!s.flag .c) rr s)

/-- `BCS $hhll` (R266, R145). -/
def execBcs (rr : Byte) (s : State) : Out := .next (branchOp (s.flag .c) rr s)

/-- `BNE $hhll` (R267, R145). -/
def execBne (rr : Byte) (s : State) : Out := .next (branchOp (!s.flag .z) rr s)

/-- `BEQ $hhll` (R268, R145). -/
def execBeq (rr : Byte) (s : State) : Out := .next (branchOp (s.flag .z) rr s)

/-- `BPL $hhll` (R269, R145). -/
def execBpl (rr : Byte) (s : State) : Out := .next (branchOp (!s.flag .n) rr s)

/-- `BMI $hhll` (R270, R145). -/
def execBmi (rr : Byte) (s : State) : Out := .next (branchOp (s.flag .n) rr s)

/-- `BVC $hhll` (R271, R145). -/
def execBvc (rr : Byte) (s : State) : Out := .next (branchOp (!s.flag .v) rr s)

/-- `BVS $hhll` (R272, R145). -/
def execBvs (rr : Byte) (s : State) : Out := .next (branchOp (s.flag .v) rr s)

/-- `RTI` (R273, R139). -/
def execRti (s : State) : Out := finish (s.advance 1).returnFromInterrupt

/-- `RTS` (R274, R139). -/
def execRts (s : State) : Out := finish (rtsOp s)

end Sys2Proof.Machine
end

