-- ==== Sys2Proof/Machine/Logic.lean ====
section
/-!
DEFINITION. Logic, compare, shift and rotate: AND, ORA, EOR, COM, BIT, TST, CMP, CPX, CPY, ASL, LSR, ROL,
ROR, RRF (R210 to R223).
-/

namespace Sys2Proof.Machine

/-- AND, ORA and EOR: the operand is read first, then A or M(X); the result goes back there; N and Z (R210 to
R212). -/
def logicOp (f : Byte → Byte → Byte) (o : Src) (s : State) : Res State := do
  let (m2, s) ← (s.advance o.len).operand o
  let (m1, s) ← s.destRead
  let s ← s.destWrite (f m1 m2)
  return s.setNZ (f m1 m2)

/-- COM: one's complement of a zero page byte; N and Z (R213). -/
def comOp (zz : Byte) (s : State) : Res State :=
  (s.advance 2).modify (.mem (.zp zz)) (fun v => ~~~v) fun s _ r => s.setNZ r

/-- BIT: N and V are bits 7 and 6 of the operand, Z that of its AND with A (R214). -/
def bitTestOp (m : MemMode) (s : State) : Res State := do
  let (v, s) ← (s.advance m.len).operand (.mem m)
  return ((s.setFlag .n (bitOf v 7)).setFlag .v (bitOf v 6)).setFlag .z (s.a &&& v == 0)

/-- TST: N and Z of a zero page byte (R215). -/
def tstOp (zz : Byte) (s : State) : Res State := do
  let (v, s) ← (s.advance 2).read (zext16 zz)
  return s.setNZ v

/-- CMP: A, or M(X) where T = 1, is compared with the operand; nothing is stored (R216). -/
def cmpOp (o : Src) (s : State) : Res State := do
  let (m2, s) ← (s.advance o.len).operand o
  let (m1, s) ← s.destRead
  return s.setCompare m1 m2

/-- CPX and CPY: the register `get` reads is compared with the operand (R217, R218). -/
def compareOp (get : State → Byte) (o : Src) (s : State) : Res State := do
  let (m, s) ← (s.advance o.len).operand o
  return s.setCompare (get s) m

/-- ASL (R219). -/
def aslOp (l : Loc) (s : State) : Res State :=
  (s.advance l.len).modify l shiftLeft fun s v r => s.setShift (bitOf v 7) r

/-- LSR: N is always 0, as bit 7 of the result is (R220). -/
def lsrOp (l : Loc) (s : State) : Res State :=
  (s.advance l.len).modify l shiftRight fun s v r => s.setShift (bitOf v 0) r

/-- ROL (R221). -/
def rolOp (l : Loc) (s : State) : Res State :=
  (s.advance l.len).modify l (rotateLeft (s.flag .c)) fun s v r => s.setShift (bitOf v 7) r

/-- ROR (R222). -/
def rorOp (l : Loc) (s : State) : Res State :=
  (s.advance l.len).modify l (rotateRight (s.flag .c)) fun s v r => s.setShift (bitOf v 0) r

/-- RRF: no flag changes (R223). -/
def rrfOp (zz : Byte) (s : State) : Res State :=
  (s.advance 2).modify (.mem (.zp zz)) swapHalves fun s _ _ => s

/-- `AND ($zz,X)` (R210, R140). -/
def execAndIndX (zz : Byte) (s : State) : Out :=
  finish (logicOp (fun p q => p &&& q) (.mem (.indX zz)) s)

/-- `AND $zz` (R210, R132). -/
def execAndZp (zz : Byte) (s : State) : Out :=
  finish (logicOp (fun p q => p &&& q) (.mem (.zp zz)) s)

/-- `AND #$nn` (R210, R131). -/
def execAndImm (nn : Byte) (s : State) : Out := finish (logicOp (fun p q => p &&& q) (.imm nn) s)

/-- `AND $hhll` (R210, R135). -/
def execAndAbs (hhll : Addr) (s : State) : Out :=
  finish (logicOp (fun p q => p &&& q) (.mem (.abs hhll)) s)

/-- `AND ($zz),Y` (R210, R141). -/
def execAndIndY (zz : Byte) (s : State) : Out :=
  finish (logicOp (fun p q => p &&& q) (.mem (.indY zz)) s)

/-- `AND $zz,X` (R210, R133). -/
def execAndZpX (zz : Byte) (s : State) : Out :=
  finish (logicOp (fun p q => p &&& q) (.mem (.zpX zz)) s)

/-- `AND $hhll,Y` (R210, R137). -/
def execAndAbsY (hhll : Addr) (s : State) : Out :=
  finish (logicOp (fun p q => p &&& q) (.mem (.absY hhll)) s)

/-- `AND $hhll,X` (R210, R136). -/
def execAndAbsX (hhll : Addr) (s : State) : Out :=
  finish (logicOp (fun p q => p &&& q) (.mem (.absX hhll)) s)

/-- `ORA ($zz,X)` (R211, R140). -/
def execOraIndX (zz : Byte) (s : State) : Out :=
  finish (logicOp (fun p q => p ||| q) (.mem (.indX zz)) s)

/-- `ORA $zz` (R211, R132). -/
def execOraZp (zz : Byte) (s : State) : Out :=
  finish (logicOp (fun p q => p ||| q) (.mem (.zp zz)) s)

/-- `ORA #$nn` (R211, R131). -/
def execOraImm (nn : Byte) (s : State) : Out := finish (logicOp (fun p q => p ||| q) (.imm nn) s)

/-- `ORA $hhll` (R211, R135). -/
def execOraAbs (hhll : Addr) (s : State) : Out :=
  finish (logicOp (fun p q => p ||| q) (.mem (.abs hhll)) s)

/-- `ORA ($zz),Y` (R211, R141). -/
def execOraIndY (zz : Byte) (s : State) : Out :=
  finish (logicOp (fun p q => p ||| q) (.mem (.indY zz)) s)

/-- `ORA $zz,X` (R211, R133). -/
def execOraZpX (zz : Byte) (s : State) : Out :=
  finish (logicOp (fun p q => p ||| q) (.mem (.zpX zz)) s)

/-- `ORA $hhll,Y` (R211, R137). -/
def execOraAbsY (hhll : Addr) (s : State) : Out :=
  finish (logicOp (fun p q => p ||| q) (.mem (.absY hhll)) s)

/-- `ORA $hhll,X` (R211, R136). -/
def execOraAbsX (hhll : Addr) (s : State) : Out :=
  finish (logicOp (fun p q => p ||| q) (.mem (.absX hhll)) s)

/-- `EOR ($zz,X)` (R212, R140). -/
def execEorIndX (zz : Byte) (s : State) : Out :=
  finish (logicOp (fun p q => p ^^^ q) (.mem (.indX zz)) s)

/-- `EOR $zz` (R212, R132). -/
def execEorZp (zz : Byte) (s : State) : Out :=
  finish (logicOp (fun p q => p ^^^ q) (.mem (.zp zz)) s)

/-- `EOR #$nn` (R212, R131). -/
def execEorImm (nn : Byte) (s : State) : Out := finish (logicOp (fun p q => p ^^^ q) (.imm nn) s)

/-- `EOR $hhll` (R212, R135). -/
def execEorAbs (hhll : Addr) (s : State) : Out :=
  finish (logicOp (fun p q => p ^^^ q) (.mem (.abs hhll)) s)

/-- `EOR ($zz),Y` (R212, R141). -/
def execEorIndY (zz : Byte) (s : State) : Out :=
  finish (logicOp (fun p q => p ^^^ q) (.mem (.indY zz)) s)

/-- `EOR $zz,X` (R212, R133). -/
def execEorZpX (zz : Byte) (s : State) : Out :=
  finish (logicOp (fun p q => p ^^^ q) (.mem (.zpX zz)) s)

/-- `EOR $hhll,Y` (R212, R137). -/
def execEorAbsY (hhll : Addr) (s : State) : Out :=
  finish (logicOp (fun p q => p ^^^ q) (.mem (.absY hhll)) s)

/-- `EOR $hhll,X` (R212, R136). -/
def execEorAbsX (hhll : Addr) (s : State) : Out :=
  finish (logicOp (fun p q => p ^^^ q) (.mem (.absX hhll)) s)

/-- `COM $zz` (R213, R132). -/
def execCom (zz : Byte) (s : State) : Out := finish (comOp zz s)

/-- `BIT $zz` (R214, R132). -/
def execBitZp (zz : Byte) (s : State) : Out := finish (bitTestOp (.zp zz) s)

/-- `BIT $hhll` (R214, R135). -/
def execBitAbs (hhll : Addr) (s : State) : Out := finish (bitTestOp (.abs hhll) s)

/-- `TST $zz` (R215, R132). -/
def execTst (zz : Byte) (s : State) : Out := finish (tstOp zz s)

/-- `CMP ($zz,X)` (R216, R140). -/
def execCmpIndX (zz : Byte) (s : State) : Out := finish (cmpOp (.mem (.indX zz)) s)

/-- `CMP $zz` (R216, R132). -/
def execCmpZp (zz : Byte) (s : State) : Out := finish (cmpOp (.mem (.zp zz)) s)

/-- `CMP #$nn` (R216, R131). -/
def execCmpImm (nn : Byte) (s : State) : Out := finish (cmpOp (.imm nn) s)

/-- `CMP $hhll` (R216, R135). -/
def execCmpAbs (hhll : Addr) (s : State) : Out := finish (cmpOp (.mem (.abs hhll)) s)

/-- `CMP ($zz),Y` (R216, R141). -/
def execCmpIndY (zz : Byte) (s : State) : Out := finish (cmpOp (.mem (.indY zz)) s)

/-- `CMP $zz,X` (R216, R133). -/
def execCmpZpX (zz : Byte) (s : State) : Out := finish (cmpOp (.mem (.zpX zz)) s)

/-- `CMP $hhll,Y` (R216, R137). -/
def execCmpAbsY (hhll : Addr) (s : State) : Out := finish (cmpOp (.mem (.absY hhll)) s)

/-- `CMP $hhll,X` (R216, R136). -/
def execCmpAbsX (hhll : Addr) (s : State) : Out := finish (cmpOp (.mem (.absX hhll)) s)

/-- `CPX #$nn` (R217, R131). -/
def execCpxImm (nn : Byte) (s : State) : Out := finish (compareOp State.x (.imm nn) s)

/-- `CPX $zz` (R217, R132). -/
def execCpxZp (zz : Byte) (s : State) : Out := finish (compareOp State.x (.mem (.zp zz)) s)

/-- `CPX $hhll` (R217, R135). -/
def execCpxAbs (hhll : Addr) (s : State) : Out := finish (compareOp State.x (.mem (.abs hhll)) s)

/-- `CPY #$nn` (R218, R131). -/
def execCpyImm (nn : Byte) (s : State) : Out := finish (compareOp State.y (.imm nn) s)

/-- `CPY $zz` (R218, R132). -/
def execCpyZp (zz : Byte) (s : State) : Out := finish (compareOp State.y (.mem (.zp zz)) s)

/-- `CPY $hhll` (R218, R135). -/
def execCpyAbs (hhll : Addr) (s : State) : Out := finish (compareOp State.y (.mem (.abs hhll)) s)

/-- `ASL $zz` (R219, R132). -/
def execAslZp (zz : Byte) (s : State) : Out := finish (aslOp (.mem (.zp zz)) s)

/-- `ASL A` (R219, R138). -/
def execAslAcc (s : State) : Out := finish (aslOp .acc s)

/-- `ASL $hhll` (R219, R135). -/
def execAslAbs (hhll : Addr) (s : State) : Out := finish (aslOp (.mem (.abs hhll)) s)

/-- `ASL $zz,X` (R219, R133). -/
def execAslZpX (zz : Byte) (s : State) : Out := finish (aslOp (.mem (.zpX zz)) s)

/-- `ASL $hhll,X` (R219, R136). -/
def execAslAbsX (hhll : Addr) (s : State) : Out := finish (aslOp (.mem (.absX hhll)) s)

/-- `LSR $zz` (R220, R132). -/
def execLsrZp (zz : Byte) (s : State) : Out := finish (lsrOp (.mem (.zp zz)) s)

/-- `LSR A` (R220, R138). -/
def execLsrAcc (s : State) : Out := finish (lsrOp .acc s)

/-- `LSR $hhll` (R220, R135). -/
def execLsrAbs (hhll : Addr) (s : State) : Out := finish (lsrOp (.mem (.abs hhll)) s)

/-- `LSR $zz,X` (R220, R133). -/
def execLsrZpX (zz : Byte) (s : State) : Out := finish (lsrOp (.mem (.zpX zz)) s)

/-- `LSR $hhll,X` (R220, R136). -/
def execLsrAbsX (hhll : Addr) (s : State) : Out := finish (lsrOp (.mem (.absX hhll)) s)

/-- `ROL $zz` (R221, R132). -/
def execRolZp (zz : Byte) (s : State) : Out := finish (rolOp (.mem (.zp zz)) s)

/-- `ROL A` (R221, R138). -/
def execRolAcc (s : State) : Out := finish (rolOp .acc s)

/-- `ROL $hhll` (R221, R135). -/
def execRolAbs (hhll : Addr) (s : State) : Out := finish (rolOp (.mem (.abs hhll)) s)

/-- `ROL $zz,X` (R221, R133). -/
def execRolZpX (zz : Byte) (s : State) : Out := finish (rolOp (.mem (.zpX zz)) s)

/-- `ROL $hhll,X` (R221, R136). -/
def execRolAbsX (hhll : Addr) (s : State) : Out := finish (rolOp (.mem (.absX hhll)) s)

/-- `ROR $zz` (R222, R132). -/
def execRorZp (zz : Byte) (s : State) : Out := finish (rorOp (.mem (.zp zz)) s)

/-- `ROR A` (R222, R138). -/
def execRorAcc (s : State) : Out := finish (rorOp .acc s)

/-- `ROR $hhll` (R222, R135). -/
def execRorAbs (hhll : Addr) (s : State) : Out := finish (rorOp (.mem (.abs hhll)) s)

/-- `ROR $zz,X` (R222, R133). -/
def execRorZpX (zz : Byte) (s : State) : Out := finish (rorOp (.mem (.zpX zz)) s)

/-- `ROR $hhll,X` (R222, R136). -/
def execRorAbsX (hhll : Addr) (s : State) : Out := finish (rorOp (.mem (.absX hhll)) s)

/-- `RRF $zz` (R223, R132). -/
def execRrf (zz : Byte) (s : State) : Out := finish (rrfOp zz s)

end Sys2Proof.Machine
end

