-- ==== Sys2Proof/Machine/Special.lean ====
section
/-!
DEFINITION. BRK, WIT, STP, NOP (R290 to R293).
-/

namespace Sys2Proof.Machine

/-- `BRK` (R290, R139). The return address is that of BRK plus 2, and the byte after BRK is not read. -/
def execBrk (s : State) : Out := finish (s.advance 2).softwareInterrupt

/-- `WIT` (R291, R139). PC is left at the next instruction. -/
def execWit (s : State) : Out := .next ((s.advance 1).setRun .waiting)

/-- `STP` (R292, R139). Where `STP_ENABLED` is false it is one NOP. -/
def execStp (s : State) : Out :=
  .next (if s.cfg.stpEnabled then (s.advance 1).setRun .stopped else s.advance 1)

/-- `NOP` (R293, R139). -/
def execNop (s : State) : Out := .next (s.advance 1)

end Sys2Proof.Machine
end

