-- ==== Sys2Proof/Machine/Step.lean ====
section
/-!
DEFINITION. One step of the machine: one whole instruction, one whole interrupt entry, or one boundary at
which the platform resets the machine or the CPU waits (R6).
-/

namespace Sys2Proof.Machine

/-- One step (R6, R312, R326). -/
def step (s : State) : Host.Outcome State Fault Refusal :=
  match s.turn with
  | .done t => .next t
  | .stop f => .fault f
  | .execute i t => exec i t

/-- The state with an instruction stored where the next step fetches, so that this step runs it; its bits
are numbered as spec/opcode_table.json numbers them and every bit above `nbits` is 0. -/
def State.withFetchWord (s : State) (nbits w : Nat) : State := s.placeInstruction (tableBytes nbits w)

end Sys2Proof.Machine
end

