-- ==== Sys2Proof/Safety.lean ====
section
/-!
DEFINITION. The terms claims are stated in: what an instruction may change, when an access cannot stop the
model, and what every step keeps.
-/

namespace Sys2Proof.Machine

/-- The four 8-bit registers other than PS. -/
inductive Reg where
  | a
  | x
  | y
  | sp
deriving DecidableEq, Repr

/-- A register's contents. -/
def State.reg (s : State) : Reg → Byte
  | .a => s.a
  | .x => s.x
  | .y => s.y
  | .sp => s.sp

/-- The frame of an instruction: from `s` to `t` only the registers `regs`, the flags `flags` and the bytes
at the addresses `stored` may differ, beside PC; the run state, the parameters and the inputs stay, and
the request and enable bits stay unless one of them may be changed by a store to one of `stored`: it lies there or
the platform says so. That a read of an I/O location changes no request or enable bit is the model's choice,
log 8. -/
def Leaves (s t : State) (regs : List Reg) (flags : List Flag) (stored : List Addr) : Prop :=
  (∀ r, r ∉ regs → t.reg r = s.reg r) ∧
  (∀ f, f ∉ flags → t.flag f = s.flag f) ∧
  (∀ b, b ∉ stored → t.peek b = s.peek b) ∧
  ((∀ l ∈ s.lines, ∀ b ∈ stored, Source.reached l.src b = false) → t.lines = s.lines) ∧
  t.run = s.run ∧ t.cfg = s.cfg ∧ t.inputs = s.inputs

/-- PC has moved past an instruction of `n` bytes (R35, R160); that it wraps past FFFF is D3, log 29. -/
def PassedBy (s t : State) (n : Nat) : Prop := t.pc = s.pc + BitVec.ofNat 16 n

/-- N and Z say of a byte what `SetNZ` says (R11, R40, R46). -/
def ShowsNZ (t : State) (v : Byte) : Prop := t.flag .n = bitOf v 7 ∧ t.flag .z = (v == 0)

/-- An address of plain memory, whose byte is read and written as it is (R71). -/
def State.isRam (s : State) (a : Addr) : Prop := s.kindAt a = .ram

/-- An address that reads as it holds: plain memory or ROM (R71). -/
def State.isPlain (s : State) (a : Addr) : Prop :=
  s.kindAt a = .ram ∨ ∃ b, s.kindAt a = .rom b

/-- An address to which a store happens or has no effect: all but the two cases of U10 that stop the
model. -/
def State.writable (s : State) (a : Addr) : Prop :=
  s.kindAt a = .ram ∨ s.kindAt a = .io ∨ s.kindAt a = .rom true

/-- Every address is implemented, and the platform says of every ROM that a write to it has no effect. -/
def State.implemented (s : State) : Prop :=
  ∀ a, s.kindAt a ≠ .unimplemented ∧ s.kindAt a ≠ .rom false

/-- The byte `v` has been stored to the address: plain memory holds it, an I/O location has the request and
enable bits that lie there changed by it, and of the others those of the sources it reaches as the platform
decides and no other (R71, R310; log 8), and the store is remembered for the hazards of the next instruction (R352, U11; logs 20, 21). -/
def Stores (s t : State) (a : Addr) (v : Byte) : Prop :=
  (s.isRam a → t.peek a = v) ∧
  (s.kindAt a = .io → ∃ n, t.lines = s.lines.map fun l => l.stored n a v) ∧
  (s.isRam a ∨ s.kindAt a = .io → a ∈ t.lastWrites)

/-- The stack address of an offset in the stack page (R80). -/
def State.stackAt (s : State) (p : Byte) : Addr := joinBytes (pageByte s.cfg.stackPage) p

/-! ### The destination of an instruction -/

/-- The registers an instruction with the destination A or M(X) writes (R152). -/
def State.destRegs (s : State) : List Reg := if s.flag .t then [] else [.a]

/-- The bytes an instruction with the destination A or M(X) stores to (R152). -/
def State.destBytes (s : State) : List Addr := if s.flag .t then [s.mxAddr] else []

/-- The destination can be written: M(X), where it is the destination, is writable. -/
def State.destWritable (s : State) : Prop := s.flag .t = true → s.writable s.mxAddr

/-- The destination A or M(X) has taken the value (R152). -/
def DestGets (s t : State) (r : Byte) : Prop :=
  if s.flag .t then Stores s t s.mxAddr r else t.a = r

/-- What a read-modify-write instruction works on holds the byte `v` and can be written; `as` are the
addresses it stores to: none for A, the effective address for a memory form (R151). -/
def State.locHolds (s : State) : Loc → List Addr → Byte → Prop
  | .acc, as, v => as = [] ∧ v = s.a
  | .mem m, as, v =>
    ∃ a u w, s.ea m = .ok (a, u) ∧ u.read a = .ok (v, w) ∧ s.writable a ∧ as = [a]

/-- What a read-modify-write instruction works on has taken the value (R151). -/
def LocGets (s t : State) : Loc → List Addr → Byte → Prop
  | .acc, _, r => t.a = r
  | .mem _, as, r => ∀ a ∈ as, Stores s t a r

/-- The registers a read-modify-write instruction writes. -/
def locRegs : Loc → List Reg
  | .acc => [.a]
  | .mem _ => []

/-- Where a branch of `n` bytes with the offset `rr` goes: the address after it, plus the signed offset where
it is taken, modulo 65536 (R275). -/
def State.branchDest (s : State) (n : Nat) (taken : Bool) (rr : Byte) : Addr :=
  BitVec.ofInt 16 (s.pc.toNat + n + if taken then rr.toInt else 0)

/-! ### Interrupts and calls -/

/-- The two stack addresses below S are plain memory. -/
def State.canCall (s : State) : Prop :=
  s.isRam (s.stackAt s.sp) ∧ s.isRam (s.stackAt (s.sp - 1))

/-- A return address has been pushed, high-order byte first, and nothing else but PC changed (R72, R262). -/
def Called (s t : State) (ret : Addr) : Prop :=
  t.sp = s.sp - 2 ∧
  t.peek (s.stackAt s.sp) = highByte ret ∧
  t.peek (s.stackAt (s.sp - 1)) = lowByte ret ∧
  Leaves s t [.sp] [] [s.stackAt s.sp, s.stackAt (s.sp - 1)]

/-- The parameters and what the product fixes of the sources are the same (R54). -/
def SameProduct (s t : State) : Prop :=
  t.cfg = s.cfg ∧ t.lines.map Line.src = s.lines.map Line.src

/-- `r` has the stack pointer and the bytes at the addresses `as` as `t` left them, on the same product;
registers, flags, PC, the rest of memory and the request and enable bits may differ. -/
def StackKept (t r : State) (as : List Addr) : Prop :=
  r.sp = t.sp ∧ SameProduct t r ∧ ∀ a ∈ as, r.peek a = t.peek a

/-- The three stack addresses below S are plain memory, and the vector table entry reads as it holds. -/
def State.canEnter (s : State) (vec : Addr) : Prop :=
  s.isRam (s.stackAt s.sp) ∧ s.isRam (s.stackAt (s.sp - 1)) ∧ s.isRam (s.stackAt (s.sp - 2)) ∧
  s.isPlain vec ∧ s.isPlain (vec + 1)

/-- An interrupt entry from `s` to `t` has been made with the return address `ret`, the vector table entry
`vec` and the break flag `b` (R320, R321). -/
def Entered (s t : State) (ret vec : Addr) (b : Bool) : Prop :=
  t.sp = s.sp - 3 ∧
  t.peek (s.stackAt s.sp) = highByte ret ∧
  t.peek (s.stackAt (s.sp - 1)) = lowByte ret ∧
  t.peek (s.stackAt (s.sp - 2)) = (s.ps.set .b b).toByte ∧
  t.flag .b = b ∧ t.flag .i = true ∧
  t.pc = joinBytes (t.peek (vec + 1)) (t.peek vec) ∧
  Leaves s t [.sp] [.b, .i] [s.stackAt s.sp, s.stackAt (s.sp - 1), s.stackAt (s.sp - 2)]

/-- The sources `ls` with the pending source of highest priority `l` among them, and `ms` the same sources
after `Accept(l)` (R311, R313). -/
def Accepts (ls : List Line) (l : Line) (ms : List Line) : Prop :=
  ∃ pre post, ls = pre ++ l :: post ∧ l.pending = true ∧ (∀ k ∈ pre, k.pending = false) ∧
    ms = pre ++ l.accepted :: post

/-! ### Boundaries -/

/-- The state at a boundary after the platform has raised its requests (R312). -/
def State.atBoundary (s : State) : State :=
  match s.inputs with
  | .requests ks :: rest => (s.setInputs rest).setLines (raiseFrom ks 0 s.lines)
  | _ => s

/-- The state's next turn is not a reset by the platform. -/
def State.noReset (s : State) : Prop := ∀ v rest, s.inputs ≠ .reset v :: rest

/-- The next step executes an instruction: no reset comes, the CPU runs, and no interrupt is accepted
(R312). -/
def State.executesNext (s : State) : Prop :=
  s.noReset ∧ s.run = .running ∧
  (s.flag .i = true ∨ ∀ l ∈ s.atBoundary.lines, l.pending = false)

/-- An address holds this byte for the fetch: it reads as it holds, and the instruction before has not
stored to it. -/
def State.fetchHolds (s : State) (a : Addr) (v : Byte) : Prop :=
  s.isPlain a ∧ a ∉ s.lastWrites ∧ s.peek a = v

/-- The 25 operation codes with no instruction assigned (R112). -/
def undefinedOpcodes : List Byte :=
  [0x04, 0x0C, 0x14, 0x1C, 0x34, 0x52, 0x54, 0x5A, 0x5C, 0x72, 0x74, 0x7A, 0x7C, 0x89, 0x92, 0x9C, 0x9E,
    0xD2, 0xD4, 0xDA, 0xDC, 0xF2, 0xF4, 0xFA, 0xFC]

/-! ### What an instruction may write -/

/-- The flags an instruction may write, by R47; CLD is without its hazard (R357). -/
def flagsWritten : Mnemonic → List Flag
  | .adc | .sbc => [.n, .v, .z, .c]
  | .and | .eor | .ora | .lda | .ldx | .ldy | .com | .tst | .inc | .dec => [.n, .z]
  | .inx | .iny | .dex | .dey | .tax | .tay | .txa | .tya | .tsx | .pla => [.n, .z]
  | .cmp | .cpx | .cpy | .asl | .lsr | .rol | .ror => [.n, .z, .c]
  | .bit => [.n, .v, .z]
  | .clc | .sec => [.c]
  | .cld | .sed => [.d]
  | .cli | .sei => [.i]
  | .clt | .set => [.t]
  | .clv => [.v]
  | .brk => [.b, .i]
  | .plp | .rti => [.c, .z, .i, .d, .b, .t, .v, .n]
  | .bbc | .bbs | .bcc | .bcs | .beq | .bmi | .bne | .bpl | .bra | .bvc | .bvs => []
  | .clb | .div | .jmp | .jsr | .ldm | .mul | .nop | .pha | .php | .rrf | .rts => []
  | .seb | .sta | .stp | .stx | .sty | .txs | .wit => []

/-- The registers an instruction may write, with T = 0 or T = 1, by R31, R32 and R33. -/
def regsWritten (i : Instr) : List Reg :=
  match i.view with
  | (.adc, _) | (.and, _) | (.eor, _) | (.ora, _) | (.sbc, _) | (.lda, _) => [.a]
  | (.asl, .acc) | (.lsr, .acc) | (.rol, .acc) | (.ror, .acc) | (.inc, .acc) | (.dec, .acc) => [.a]
  | (.clb, .accBit _) | (.seb, .accBit _) | (.txa, _) | (.tya, _) => [.a]
  | (.pla, _) | (.mul, _) | (.div, _) => [.a, .sp]
  | (.ldx, _) | (.tax, _) | (.tsx, _) | (.inx, _) | (.dex, _) => [.x]
  | (.ldy, _) | (.tay, _) | (.iny, _) | (.dey, _) => [.y]
  | (.txs, _) | (.pha, _) | (.php, _) | (.plp, _) => [.sp]
  | (.jsr, _) | (.rts, _) | (.rti, _) | (.brk, _) => [.sp]
  | _ => []

/-- An instruction that stores to no memory byte where T = `t` (R74). -/
def storesNothing (i : Instr) (t : Bool) : Bool :=
  match i.view with
  | (.lda, _) | (.adc, _) | (.sbc, _) | (.and, _) | (.ora, _) | (.eor, _) => !t
  | (.cmp, _) | (.ldx, _) | (.ldy, _) | (.cpx, _) | (.cpy, _) | (.bit, _) | (.tst, _) => true
  | (.asl, .acc) | (.lsr, .acc) | (.rol, .acc) | (.ror, .acc) | (.inc, .acc) | (.dec, .acc) => true
  | (.clb, .accBit _) | (.seb, .accBit _) | (.bbc, _) | (.bbs, _) => true
  | (.tax, _) | (.txa, _) | (.tay, _) | (.tya, _) | (.tsx, _) | (.txs, _) => true
  | (.inx, _) | (.dex, _) | (.iny, _) | (.dey, _) | (.pla, _) | (.plp, _) => true
  | (.clc, _) | (.sec, _) | (.cld, _) | (.sed, _) | (.cli, _) | (.sei, _) => true
  | (.clt, _) | (.set, _) | (.clv, _) | (.jmp, _) | (.bra, _) | (.rts, _) | (.rti, _) => true
  | (.bcc, _) | (.bcs, _) | (.bne, _) | (.beq, _) | (.bpl, _) | (.bmi, _) => true
  | (.bvc, _) | (.bvs, _) | (.wit, _) | (.stp, _) | (.nop, _) => true
  | _ => false

/-- The invariant every step keeps: memory is canonical (R70); the stop state is entered only where STP is
enabled (R292, R326); a decimal carry is late only with D = 1 (R350); and the stores remembered are stores
to plain memory or I/O. -/
def State.Inv (s : State) : Prop :=
  Memory.wf s.mem = true ∧
  (s.run = .stopped → s.cfg.stpEnabled = true) ∧
  (s.afterDecimal = true → s.flag .d = true) ∧
  (∀ a ∈ s.lastWrites, s.kindAt a = .ram ∨ s.kindAt a = .io)

end Sys2Proof.Machine
end

