-- ==== Sys2Proof/WellFormed.lean ====
section
/-!
DEFINITION. Which instructions, and which orders of instructions, the spec allows.

An operand combination is forbidden only in `JMP ($hhFF)` (R114). The restrictions on the instruction
that directly follows another are those of R350, R351 and R352; the machine does not refuse a program
that violates them (R357), this check reports it.
-/

namespace Sys2Proof

/-- R114, R355: the indirect address of `JMP ($hhll)` does not end in FF. -/
def Instr.wellFormed (i : Instr) : Bool :=
  match i.view with
  | (.jmp, .indAbs p) => p.extractLsb' 0 8 != 0xFF#8
  | _ => true

/-- R350: where D = 1, an ADC or SBC is not directly followed by SEC, CLC or CLD. -/
def decimalCarryOk (decimal : Bool) (first second : Instr) : Bool :=
  !(decimal && (first.mnemonic == .adc || first.mnemonic == .sbc)
    && (second.mnemonic == .sec || second.mnemonic == .clc || second.mnemonic == .cld))

/-- R351: a PLP is directly followed by NOP. -/
def nopAfterPlpOk (first second : Instr) : Bool :=
  first.mnemonic != .plp || second.mnemonic == .nop

/-- The zero page byte an instruction is seen to store to from its operands alone: a store, LDM, or a
read-modify-write instruction in Zero Page mode, or CLB, SEB on a zero page byte (R74). -/
def Instr.zeroPageStore (i : Instr) : Option Byte :=
  match i.view with
  | (.sta, .mem (.zp zz)) | (.stx, .mem (.zp zz)) | (.sty, .mem (.zp zz)) => some zz
  | (.asl, .mem (.zp zz)) | (.lsr, .mem (.zp zz)) | (.rol, .mem (.zp zz)) => some zz
  | (.ror, .mem (.zp zz)) | (.inc, .mem (.zp zz)) | (.dec, .mem (.zp zz)) => some zz
  | (.com, .mem (.zp zz)) | (.rrf, .mem (.zp zz)) => some zz
  | (_, .immZp _ zz) | (_, .zpBit _ zz) => some zz
  | _ => none

/-- R352: a BBC or BBS on an interrupt request bit does not directly follow an instruction that stores to
the byte that bit lies in. -/
def requestBitOk (sources : List Source) (first second : Instr) : Bool :=
  match second.form with
  | .zpBitRel i zz _ =>
    !(first.zeroPageStore == some zz
      && sources.any fun c => c.requestAddr == 0#8 ++ zz && c.requestBit == i)
  | _ => true

/-- The restrictions on two instructions that are executed one directly after the other. -/
def pairOk (decimal : Bool) (sources : List Source) (first second : Instr) : Bool :=
  decimalCarryOk decimal first second && nopAfterPlpOk first second
    && requestBitOk sources first second

/-- The check over a sequence of instructions executed in this order: each is well-formed and each pair
of neighbours is allowed (R357). -/
def sequenceOk (decimal : Bool) (sources : List Source) : List Instr → Bool
  | [] => true
  | [i] => i.wellFormed
  | i :: j :: rest =>
    i.wellFormed && pairOk decimal sources i j && sequenceOk decimal sources (j :: rest)

end Sys2Proof
end

