-- ==== Sys2Proof/Certificates/Slice0/Obligations.lean ====
section
/-!
DEFINITION. The statements for the provers, from the numbered rules of spec/.

`i.view = (.lda, .ofSrc o)` says that `i` is LDA in any of its forms, with the operand `o`. A statement
whose docstring names a decision `D<n>` of the spec or a log entry rests on it there. Two choices stand in the
terms of Safety.lean and so in every statement that uses them: what I/O locations do (`Leaves`, `Stores`;
log 8) and that PC wraps past FFFF (`PassedBy`; D3, log 29).
-/

open Sys2Proof Sys2Proof.Machine

/-! ### Encoding -/

/-- Decoding an instruction's encoding gives it back, with every operand at every value (R101, R106, R108,
R111). -/
def Obligations.DecodeEncode : Prop :=
  ∀ (i : Instr) (rest : List Byte), decode (encode i ++ rest) = .ok (i, rest)

/-- Bytes that decode are the encoding of what they decode to: no bit is dropped, and no two words mean one
instruction (R101, R114, R117). -/
def Obligations.EncodeDecode : Prop :=
  ∀ (bs rest : List Byte) (i : Instr), decode bs = .ok (i, rest) → bs = encode i ++ rest

/-- Exactly the 25 codes of R112 begin no instruction. Executing one stops the model: the spec's decision
D7, log 24. -/
def Obligations.UndefinedOperationCodes : Prop :=
  (∀ op : Byte, opLength op = none ↔ op ∈ undefinedOpcodes) ∧
  ∀ (s u : State) (op : Byte), s.executesNext → op ∈ undefinedOpcodes →
    s.atBoundary.fetchByte s.pc = .ok (op, u) → step s = .fault (.undefinedOpcode op)

/-- Words the spec writes out decode to the instructions they stand for (R102, R104, R106, R107; the codes 6D,
2A, 18 and 22 are those of R111, R135, R138, R139 and R144). -/
def Obligations.SampleWordsDecode : Prop :=
  decode [0x6D, 0x12, 0xAD] = .ok (.adcAbs 0xAD12, []) ∧
  decode [0x3C, 0x5A, 0x10] = .ok (.ldm 0x5A 0x10, []) ∧
  decode [0xBF, 0x44] = .ok (.clbZp 5 0x44, []) ∧
  decode [0xB7, 0x04, 0xF1] = .ok (.bbcZp 5 0x04 0xF1, []) ∧
  decode [0x2A] = .ok (.rolAcc, []) ∧
  decode [0x90, 0xF2] = .ok (.bcc 0xF2, []) ∧
  decode [0x22, 0xC0] = .ok (.jsrSp 0xC0, []) ∧
  decode [0x18] = .ok (.clc, [])

/-- A step at a boundary where no interrupt is accepted runs the instruction whose bytes are at PC (R34, R73,
R312). That the fetch changes nothing but the count of free values drawn is the model's choice: log 8 where a byte
is fetched from an I/O location (R86 leaves the effects of such a read to the platform), and logs 15 and 21 for the
values drawn. -/
def Obligations.StepRunsTheInstruction : Prop :=
  ∀ (s : State) (i : Instr), s.executesNext →
    (∀ t, s.atBoundary.fetch = .ok (i, t) → step s = exec i t ∧ ∃ k, t = s.atBoundary.draw k) ∧
    ((∀ k v, (encode i)[k]? = some v → s.atBoundary.fetchHolds (s.pc + BitVec.ofNat 16 k) v) →
      step s = exec i s.atBoundary)

/-! ### Memory and operands -/

/-- Plain memory reads as last written, and a write leaves every other address (R71). -/
def Obligations.PlainMemoryReadsAsLastWritten : Prop :=
  ∀ (s : State) (a : Addr) (v : Byte), s.isRam a →
    ∃ t, s.write a v = .ok t ∧ t.read a = .ok (v, t) ∧ Leaves s t [] [] [a] ∧
      ∀ b, b ≠ a → s.isPlain b → t.read b = .ok (s.peek b, t)

/-- A source's request and enable bits are read at their places; a store of 0 to the request bit clears it,
and the enable bit takes what is stored (R310, R311). The model's choices: what a store of 1 to a request bit
does is log 12; that a store leaves the bits that do not lie in its byte, unless the platform says that it reaches
the source, is log 8; that such a byte is I/O, so that the store always completes, is log 10; that both bits in one
byte change at once is log 46. -/
def Obligations.RequestAndEnableBitsInMemory : Prop :=
  ∀ (s : State) (l : Line) (pre post : List Line), s.lines = pre ++ l :: post →
    (∀ v t, s.read l.src.requestAddr = .ok (v, t) →
      ¬(l.src.enableAddr = l.src.requestAddr ∧ l.src.enableBit = l.src.requestBit) →
      (∀ k ∈ post, ¬(k.src.requestAddr = l.src.requestAddr ∧ k.src.requestBit = l.src.requestBit) ∧
        ¬(k.src.enableAddr = l.src.requestAddr ∧ k.src.enableBit = l.src.requestBit)) →
      bitOf v l.src.requestBit.toNat = l.request) ∧
    (∀ v t, s.read l.src.enableAddr = .ok (v, t) →
      (∀ k ∈ post, ¬(k.src.requestAddr = l.src.enableAddr ∧ k.src.requestBit = l.src.enableBit) ∧
        ¬(k.src.enableAddr = l.src.enableAddr ∧ k.src.enableBit = l.src.enableBit)) →
      bitOf v l.src.enableBit.toNat = l.enable) ∧
    (∀ a v, (a = l.src.requestAddr ∨ a = l.src.enableAddr) → ∃ t l', s.write a v = .ok t ∧
      t.lines[pre.length]? = some l' ∧ l'.src = l.src ∧
      (a = l.src.requestAddr → bitOf v l.src.requestBit.toNat = false → l'.request = false) ∧
      (a ≠ l.src.requestAddr → a ∉ l.src.reachedFrom → l'.request = l.request) ∧
      (a = l.src.enableAddr → l'.enable = bitOf v l.src.enableBit.toNat) ∧
      (a ≠ l.src.enableAddr → a ∉ l.src.reachedFrom → l'.enable = l.enable))

/-- A push stores at the stack address and then decrements S; a pull increments S and then reads there, so
that it gives back what was pushed (R37, R38, R80). -/
def Obligations.PushAndPull : Prop :=
  (∀ (s : State) (v : Byte), s.writable s.stackAddr → ∃ t, s.push v = .ok t ∧
    Stores s t (s.stackAt s.sp) v ∧ t.sp = s.sp - 1 ∧ Leaves s t [.sp] [] [s.stackAt s.sp]) ∧
  (∀ (s u : State) (v : Byte), s.read (s.stackAt (s.sp + 1)) = .ok (v, u) → ∃ t, s.pull = .ok (v, t) ∧
    t.sp = s.sp + 1 ∧ Leaves s t [.sp] [] []) ∧
  (∀ (s t : State) (v : Byte), s.isRam s.stackAddr → s.push v = .ok t →
    ∃ u, t.pull = .ok (v, u) ∧ u.sp = s.sp)

/-- The effective addresses of the direct modes (R132 to R137), the operand an instruction reads (R131,
R151), and the wrap at FFFF of the absolute indexed modes (D4). -/
def Obligations.DirectOperands : Prop :=
  ∀ (s : State) (zz nn : Byte) (hhll : Addr),
    (∃ a : Addr, s.ea (.zp zz) = .ok (a, s) ∧ a.toNat = zz.toNat) ∧
    (∃ a : Addr, s.ea (.zpX zz) = .ok (a, s) ∧ a.toNat = (zz.toNat + s.x.toNat) % 256) ∧
    (∃ a : Addr, s.ea (.zpY zz) = .ok (a, s) ∧ a.toNat = (zz.toNat + s.y.toNat) % 256) ∧
    s.ea (.abs hhll) = .ok (hhll, s) ∧
    (∃ a : Addr, s.ea (.absX hhll) = .ok (a, s) ∧ a.toNat = (hhll.toNat + s.x.toNat) % 65536) ∧
    (∃ a : Addr, s.ea (.absY hhll) = .ok (a, s) ∧ a.toNat = (hhll.toNat + s.y.toNat) % 65536) ∧
    s.operand (.imm nn) = .ok (nn, s) ∧
    (∀ m a u, s.ea m = .ok (a, u) → s.isPlain a → s.operand (.mem m) = .ok (s.peek a, u))

/-- The indirect modes: the pointer's low-order byte is at the zero page offset, its high-order byte at the
next zero page location (R140, R141, R143), which after FF is 0000 or 0100 by `ZP_PTR_WRAP` (R153, D5). That
Indirect Y adds Y modulo 65536 is D4, log 29. -/
def Obligations.IndirectOperands : Prop :=
  ∀ (s : State) (zz p : Byte),
    (s.nextZp p).toNat = (if s.cfg.zpPtrWrap then (p.toNat + 1) % 256 else p.toNat + 1) ∧
    (s.isPlain (zext16 p) → s.isPlain (s.nextZp p) →
      ∃ q : Addr, q.toNat = 256 * (s.peek (s.nextZp p)).toNat + (s.peek (zext16 p)).toNat ∧
        s.zpPointer p = .ok (q, s) ∧
        (p = zz + s.x → s.ea (.indX zz) = .ok (q, s)) ∧
        (p = zz → ∃ a : Addr, s.ea (.indY zz) = .ok (a, s) ∧
          a.toNat = (q.toNat + s.y.toNat) % 65536))

/-! ### Data transfer -/

/-- LDA, all eight forms: the operand goes to A where T = 0 and to M(X) where T = 1, with N and Z (R161).
The address of M(X) is D18, log 26. -/
def Obligations.LoadAccumulator : Prop :=
  ∀ (s u : State) (i : Instr) (o : Src) (v : Byte), i.view = (.lda, .ofSrc o) →
    s.operand o = .ok (v, u) → s.destWritable →
    ∃ t, exec i s = .next t ∧ DestGets s t v ∧ ShowsNZ t v ∧ PassedBy s t o.len ∧
      Leaves s t s.destRegs [.n, .z] s.destBytes

/-- LDX and LDY, all five forms each: the operand goes to the index register, with N and Z (R163, R164). -/
def Obligations.LoadIndexRegister : Prop :=
  ∀ (s u : State) (i : Instr) (o : Src) (v : Byte) (r : Reg),
    (i.view = (.ldx, .ofSrc o) ∧ r = .x ∨ i.view = (.ldy, .ofSrc o) ∧ r = .y) →
    s.operand o = .ok (v, u) →
    ∃ t, exec i s = .next t ∧ t.reg r = v ∧ ShowsNZ t v ∧ PassedBy s t o.len ∧
      Leaves s t [r] [.n, .z] []

/-- STA, STX and STY, all their forms, and LDM: the register or the immediate byte is stored at the effective
address, whatever T is, and nothing else changes (R162, R165, R166, R167). `Stores` says what a store to an I/O
location does, log 8, and that a store is remembered, logs 20 and 21. -/
def Obligations.StoreInstructions : Prop :=
  (∀ (s u : State) (i : Instr) (m : MemMode) (a : Addr) (r : Reg),
    (i.view = (.sta, .mem m) ∧ r = .a ∨ i.view = (.stx, .mem m) ∧ r = .x ∨
      i.view = (.sty, .mem m) ∧ r = .y) →
    s.ea m = .ok (a, u) → s.writable a →
    ∃ t, exec i s = .next t ∧ Stores s t a (s.reg r) ∧ PassedBy s t m.len ∧ Leaves s t [] [] [a]) ∧
  (∀ (s : State) (nn zz : Byte), s.writable (zext16 zz) →
    ∃ t, exec (.ldm nn zz) s = .next t ∧ Stores s t (zext16 zz) nn ∧ PassedBy s t 3 ∧
      Leaves s t [] [] [zext16 zz])

/-- TAX, TXA, TAY, TYA and TSX copy a register with N and Z; TXS copies X to S with no flag (R168 to R173). -/
def Obligations.RegisterTransfers : Prop :=
  ∀ s : State,
    (∀ i r v, (i, r, v) ∈ [(Instr.tax, Reg.x, s.a), (.txa, .a, s.x), (.tay, .y, s.a), (.tya, .a, s.y),
        (.tsx, .x, s.sp)] →
      ∃ t, exec i s = .next t ∧ t.reg r = v ∧ ShowsNZ t v ∧ PassedBy s t 1 ∧
        Leaves s t [r] [.n, .z] []) ∧
    ∃ t, exec .txs s = .next t ∧ t.sp = s.x ∧ PassedBy s t 1 ∧ Leaves s t [.sp] [] []

/-- PHA and PHP push A or PS as it stands, all eight flags at their bits (R174, R175, R36; D20, log 28). -/
def Obligations.PushInstructions : Prop :=
  ∀ s : State, s.writable s.stackAddr →
    (∃ t, exec .pha s = .next t ∧ Stores s t (s.stackAt s.sp) s.a ∧ t.sp = s.sp - 1 ∧
      PassedBy s t 1 ∧ Leaves s t [.sp] [] [s.stackAt s.sp]) ∧
    (∃ t p, exec .php s = .next t ∧ Stores s t (s.stackAt s.sp) p ∧ t.sp = s.sp - 1 ∧
      (∀ f : Flag, bitOf p f.pos = s.flag f) ∧ PassedBy s t 1 ∧ Leaves s t [.sp] [] [s.stackAt s.sp])

/-- PLA pulls A with N and Z, whatever T is; PLP pulls all eight flags (R176, R177). -/
def Obligations.PullInstructions : Prop :=
  ∀ (s u : State) (v : Byte), s.read (s.stackAt (s.sp + 1)) = .ok (v, u) →
    (∃ t, exec .pla s = .next t ∧ t.a = v ∧ t.sp = s.sp + 1 ∧ ShowsNZ t v ∧ PassedBy s t 1 ∧
      Leaves s t [.a, .sp] [.n, .z] []) ∧
    (∃ t, exec .plp s = .next t ∧ t.sp = s.sp + 1 ∧ (∀ f : Flag, t.flag f = bitOf v f.pos) ∧
      PassedBy s t 1 ∧ Leaves s t [.sp] [.c, .z, .i, .d, .b, .t, .v, .n] [])

/-! ### Arithmetic -/

/-- ADC with D = 0, all eight forms (R190, R194). With T = 1 the first operand and the destination are M(X),
whose address is D18, log 26. -/
def Obligations.BinaryAddition : Prop :=
  ∀ (s u w : State) (i : Instr) (o : Src) (m1 m2 : Byte), i.view = (.adc, .ofSrc o) →
    s.flag .d = false → s.operand o = .ok (m2, u) → u.destRead = .ok (m1, w) → s.destWritable →
    ∃ t r, exec i s = .next t ∧ DestGets s t r ∧ ShowsNZ t r ∧
      r.toNat = (m1.toNat + m2.toNat + carryNat (s.flag .c)) % 256 ∧
      t.flag .c = decide (255 < m1.toNat + m2.toNat + carryNat (s.flag .c)) ∧
      (t.flag .v = true ↔ m1.toInt + m2.toInt + carryNat (s.flag .c) < -128 ∨
        127 < m1.toInt + m2.toInt + carryNat (s.flag .c)) ∧
      PassedBy s t o.len ∧ Leaves s t s.destRegs [.n, .v, .z, .c] s.destBytes

/-- SBC with D = 0, all eight forms: the borrow is the complement of C (R192, R195). With T = 1 the first
operand and the destination are M(X), whose address is D18, log 26. -/
def Obligations.BinarySubtraction : Prop :=
  ∀ (s u w : State) (i : Instr) (o : Src) (m1 m2 : Byte), i.view = (.sbc, .ofSrc o) →
    s.flag .d = false → s.operand o = .ok (m2, u) → u.destRead = .ok (m1, w) → s.destWritable →
    ∃ t r, exec i s = .next t ∧ DestGets s t r ∧ ShowsNZ t r ∧
      (r.toNat : Int) = ((m1.toNat : Int) - m2.toNat - carryNat (!s.flag .c)) % 256 ∧
      t.flag .c = decide (m2.toNat + carryNat (!s.flag .c) ≤ m1.toNat) ∧
      (t.flag .v = true ↔ m1.toInt - m2.toInt - carryNat (!s.flag .c) < -128 ∨
        127 < m1.toInt - m2.toInt - carryNat (!s.flag .c)) ∧
      PassedBy s t o.len ∧ Leaves s t s.destRegs [.n, .v, .z, .c] s.destBytes

/-- The bit forms of V and of subtraction that R190 and R192 derive from the sums. -/
def Obligations.OverflowAndBorrowBitForms : Prop :=
  ∀ (a m : Byte) (c : Bool),
    (addBin a m c).v = bitOf ((a ^^^ (addBin a m c).r) &&& (m ^^^ (addBin a m c).r)) 7 ∧
    subBin a m c = addBin a (~~~m) c ∧
    (subBin a m c).v = bitOf ((a ^^^ m) &&& (a ^^^ (subBin a m c).r)) 7

/-- ADC with D = 1, all eight forms: the decimal sum and its carry for decimal numerals; otherwise, and for
N, V and Z, the values are free (R191, R194; D8, log 16; D18, log 26). -/
def Obligations.DecimalAddition : Prop :=
  ∀ (s u w : State) (i : Instr) (o : Src) (m1 m2 : Byte), i.view = (.adc, .ofSrc o) →
    s.flag .d = true → s.operand o = .ok (m2, u) → u.destRead = .ok (m1, w) → s.destWritable →
    ∃ t r, exec i s = .next t ∧ DestGets s t r ∧ PassedBy s t o.len ∧
      Leaves s t s.destRegs [.n, .v, .z, .c] s.destBytes ∧
      (isDecimal m1 = true → isDecimal m2 = true →
        isDecimal r = true ∧ decOf r = (decOf m1 + decOf m2 + carryNat (s.flag .c)) % 100 ∧
        t.flag .c = decide (99 < decOf m1 + decOf m2 + carryNat (s.flag .c)))

/-- SBC with D = 1, all eight forms: the decimal difference and its borrow for decimal numerals; otherwise,
and for N, V and Z, the values are free (R193, R195; D8, log 16; D18, log 26). That a difference below 0
becomes its ten's complement is D28, log 31. -/
def Obligations.DecimalSubtraction : Prop :=
  ∀ (s u w : State) (i : Instr) (o : Src) (m1 m2 : Byte), i.view = (.sbc, .ofSrc o) →
    s.flag .d = true → s.operand o = .ok (m2, u) → u.destRead = .ok (m1, w) → s.destWritable →
    ∃ t r, exec i s = .next t ∧ DestGets s t r ∧ PassedBy s t o.len ∧
      Leaves s t s.destRegs [.n, .v, .z, .c] s.destBytes ∧
      (isDecimal m1 = true → isDecimal m2 = true →
        isDecimal r = true ∧
        (decOf r : Int) = ((decOf m1 : Int) - decOf m2 - carryNat (!s.flag .c)) % 100 ∧
        t.flag .c = decide (decOf m2 + carryNat (!s.flag .c) ≤ decOf m1))

/-- INC and DEC, all five forms each: always binary, with N and Z (R196, R197). -/
def Obligations.IncrementAndDecrement : Prop :=
  ∀ (s : State) (i : Instr) (l : Loc) (as : List Addr) (v r : Byte),
    (i.view = (.inc, .ofLoc l) ∧ r = v + 1 ∨ i.view = (.dec, .ofLoc l) ∧ r = v - 1) →
    s.locHolds l as v →
    ∃ t, exec i s = .next t ∧ LocGets s t l as r ∧ ShowsNZ t r ∧ PassedBy s t l.len ∧
      Leaves s t (locRegs l) [.n, .z] as

/-- INX, DEX, INY and DEY, with N and Z (R198 to R201). -/
def Obligations.IndexIncrementAndDecrement : Prop :=
  ∀ (s : State) (i : Instr) (r : Reg) (v : Byte),
    (i, r, v) ∈ [(Instr.inx, Reg.x, s.x + 1), (.dex, .x, s.x - 1), (.iny, .y, s.y + 1),
      (.dey, .y, s.y - 1)] →
    ∃ t, exec i s = .next t ∧ t.reg r = v ∧ ShowsNZ t v ∧ PassedBy s t 1 ∧ Leaves s t [r] [.n, .z] []

/-- MUL: the high-order byte of the product is pushed and the low-order byte goes to A, no flag (R202). That
the operands are unsigned is PRESUMED, log 30. -/
def Obligations.Multiplication : Prop :=
  ∀ (s u : State) (zz m : Byte), s.cfg.hasMulDiv = true →
    s.read (zext16 (zz + s.x)) = .ok (m, u) → s.writable s.stackAddr →
    ∃ t h, exec (.mul zz) s = .next t ∧ Stores s t (s.stackAt s.sp) h ∧
      256 * h.toNat + t.a.toNat = s.a.toNat * m.toNat ∧ t.sp = s.sp - 1 ∧ PassedBy s t 2 ∧
      Leaves s t [.a, .sp] [] [s.stackAt s.sp]

/-- DIV: the quotient goes to A, one's complement of the remainder is pushed, no flag (R203). Where the
divisor is 0 or the quotient exceeds 255 both are free and S is still decremented (D9, log 17). That the
operands are unsigned is PRESUMED, log 30. -/
def Obligations.Division : Prop :=
  ∀ (s u : State) (zz : Byte) (n : Addr), s.cfg.hasMulDiv = true →
    s.zpPointer (zz + s.x) = .ok (n, u) → s.writable s.stackAddr →
    ∃ t h, exec (.div zz) s = .next t ∧ Stores s t (s.stackAt s.sp) h ∧ t.sp = s.sp - 1 ∧
      PassedBy s t 2 ∧ Leaves s t [.a, .sp] [] [s.stackAt s.sp] ∧
      (0 < s.a.toNat → n.toNat / s.a.toNat ≤ 255 →
        n.toNat = s.a.toNat * t.a.toNat + (~~~h).toNat ∧ (~~~h).toNat < s.a.toNat)

/-- On a product without MUL and DIV their operation codes are undefined, and a step that fetches one stops
with no other byte read: D24, log 24 (R113). -/
def Obligations.ProductWithoutMultiply : Prop :=
  ∀ (s : State) (zz : Byte), s.cfg.hasMulDiv = false →
    exec (.mul zz) s = .fault (.undefinedOpcode 0x62) ∧
    exec (.div zz) s = .fault (.undefinedOpcode 0xE2) ∧
    ∀ (op : Byte) (u : State), op = 0x62 ∨ op = 0xE2 → s.executesNext →
      s.atBoundary.fetchByte s.pc = .ok (op, u) → step s = .fault (.undefinedOpcode op)

/-! ### Logic, compare, shift -/

/-- AND, ORA and EOR, all eight forms each (R210 to R212). With T = 1 the first operand and the destination
are M(X), whose address is D18, log 26. -/
def Obligations.LogicalOperations : Prop :=
  ∀ (s u w : State) (i : Instr) (o : Src) (m1 m2 r : Byte),
    (i.view = (.and, .ofSrc o) ∧ r = m1 &&& m2 ∨ i.view = (.ora, .ofSrc o) ∧ r = m1 ||| m2 ∨
      i.view = (.eor, .ofSrc o) ∧ r = m1 ^^^ m2) →
    s.operand o = .ok (m2, u) → u.destRead = .ok (m1, w) → s.destWritable →
    ∃ t, exec i s = .next t ∧ DestGets s t r ∧ ShowsNZ t r ∧ PassedBy s t o.len ∧
      Leaves s t s.destRegs [.n, .z] s.destBytes

/-- COM: one's complement of a zero page byte, with N and Z (R213). -/
def Obligations.ComplementOfMemory : Prop :=
  ∀ (s : State) (zz v : Byte) (as : List Addr), s.locHolds (.mem (.zp zz)) as v →
    ∃ t r, exec (.com zz) s = .next t ∧ LocGets s t (.mem (.zp zz)) as r ∧
      r.toNat = 255 - v.toNat ∧ ShowsNZ t r ∧ PassedBy s t 2 ∧ Leaves s t [] [.n, .z] as

/-- RRF: the halves of a zero page byte change places, no flag; the exchange is the spec's reading of a lost
figure, DEDUCED, log 39 (R223). -/
def Obligations.RotateByFour : Prop :=
  ∀ (s : State) (zz v : Byte) (as : List Addr), s.locHolds (.mem (.zp zz)) as v →
    ∃ t r, exec (.rrf zz) s = .next t ∧ LocGets s t (.mem (.zp zz)) as r ∧
      r.toNat = 16 * (v.toNat % 16) + v.toNat / 16 ∧ PassedBy s t 2 ∧ Leaves s t [] [] as

/-- BIT, both forms: N and V are bits 7 and 6 of the operand, Z that of its AND with A; TST: N and Z of a zero
page byte; nothing is stored (R214, R215). -/
def Obligations.BitTests : Prop :=
  (∀ (s u : State) (i : Instr) (m : MemMode) (v : Byte), i.view = (.bit, .mem m) →
    s.operand (.mem m) = .ok (v, u) →
    ∃ t, exec i s = .next t ∧ t.flag .n = bitOf v 7 ∧ t.flag .v = bitOf v 6 ∧
      t.flag .z = (s.a &&& v == 0) ∧ PassedBy s t m.len ∧ Leaves s t [] [.n, .v, .z] []) ∧
  (∀ (s u : State) (zz v : Byte), s.read (zext16 zz) = .ok (v, u) →
    ∃ t, exec (.tst zz) s = .next t ∧ ShowsNZ t v ∧ PassedBy s t 2 ∧ Leaves s t [] [.n, .z] [])

/-- CMP, all eight forms: A, or M(X) where T = 1, is compared and nothing is stored (R216; the address of M(X)
is D18, log 26). -/
def Obligations.CompareAccumulator : Prop :=
  ∀ (s u w : State) (i : Instr) (o : Src) (m1 m2 : Byte), i.view = (.cmp, .ofSrc o) →
    s.operand o = .ok (m2, u) → u.destRead = .ok (m1, w) →
    ∃ t, exec i s = .next t ∧ t.flag .c = decide (m2.toNat ≤ m1.toNat) ∧ t.flag .z = (m1 == m2) ∧
      t.flag .n = bitOf (m1 - m2) 7 ∧ PassedBy s t o.len ∧ Leaves s t [] [.n, .z, .c] []

/-- CPX and CPY, all three forms each: the index register is compared and nothing is stored (R217, R218). -/
def Obligations.CompareIndexRegister : Prop :=
  ∀ (s u : State) (i : Instr) (o : Src) (r : Reg) (m : Byte),
    (i.view = (.cpx, .ofSrc o) ∧ r = .x ∨ i.view = (.cpy, .ofSrc o) ∧ r = .y) →
    s.operand o = .ok (m, u) →
    ∃ t, exec i s = .next t ∧ t.flag .c = decide (m.toNat ≤ (s.reg r).toNat) ∧
      t.flag .z = (s.reg r == m) ∧ t.flag .n = bitOf (s.reg r - m) 7 ∧ PassedBy s t o.len ∧
      Leaves s t [] [.n, .z, .c] []

/-- ASL, LSR, ROL and ROR, all five forms each, with C the bit shifted out and N and Z of the result (R219 to
R222). -/
def Obligations.ShiftsAndRotates : Prop :=
  ∀ (s : State) (i : Instr) (l : Loc) (as : List Addr) (v : Byte) (n : Nat) (c : Bool),
    (i.view = (.asl, .ofLoc l) ∧ n = 2 * v.toNat % 256 ∧ c = bitOf v 7 ∨
      i.view = (.lsr, .ofLoc l) ∧ n = v.toNat / 2 ∧ c = bitOf v 0 ∨
      i.view = (.rol, .ofLoc l) ∧ n = 2 * v.toNat % 256 + carryNat (s.flag .c) ∧ c = bitOf v 7 ∨
      i.view = (.ror, .ofLoc l) ∧ n = v.toNat / 2 + 128 * carryNat (s.flag .c) ∧ c = bitOf v 0) →
    s.locHolds l as v →
    ∃ t r, exec i s = .next t ∧ LocGets s t l as r ∧ r.toNat = n ∧ ShowsNZ t r ∧ t.flag .c = c ∧
      PassedBy s t l.len ∧ Leaves s t (locRegs l) [.n, .z, .c] as

/-! ### Bits and flags -/

/-- CLB and SEB, on A and on a zero page byte: one bit takes 0 or 1, the seven others stay, no flag changes
(R240, R241). -/
def Obligations.ClearAndSetBit : Prop :=
  ∀ (s : State) (k : BitNo) (b : Bool) (i : Instr) (l : Loc) (as : List Addr) (v : Byte) (n : Nat),
    (i = (if b then .sebAcc k else .clbAcc k) ∧ l = .acc ∧ n = 1 ∨
      ∃ zz, i = (if b then .sebZp k zz else .clbZp k zz) ∧ l = .mem (.zp zz) ∧ n = 2) →
    s.locHolds l as v →
    ∃ t r, exec i s = .next t ∧ LocGets s t l as r ∧
      (∀ j, j < 8 → bitOf r j = if j = k.toNat then b else bitOf v j) ∧
      PassedBy s t n ∧ Leaves s t (locRegs l) [] as

/-- SED, CLI, SEI, CLT, SET and CLV write one flag and nothing else (R245 to R250). -/
def Obligations.FlagInstructions : Prop :=
  ∀ (s : State) (i : Instr) (f : Flag) (b : Bool),
    (i, f, b) ∈ [(Instr.sed, Flag.d, true), (.cli, .i, false), (.sei, .i, true), (.clt, .t, false),
      (.set, .t, true), (.clv, .v, false)] →
    ∃ t, exec i s = .next t ∧ t.flag f = b ∧ PassedBy s t 1 ∧ Leaves s t [] [f] []

/-- CLC, SEC and CLD write one flag and nothing else; directly after an ADC or SBC with D = 1 they still
complete, but C, and for CLD also D, are free (R242 to R244, R350; R357, D26, log 18). -/
def Obligations.CarryAndDecimalFlags : Prop :=
  (∀ (s : State) (i : Instr) (f : Flag) (b : Bool),
    (i, f, b) ∈ [(Instr.clc, Flag.c, false), (.sec, .c, true), (.cld, .d, false)] →
    ∃ t, exec i s = .next t ∧ PassedBy s t 1 ∧
      (s.afterDecimal = false → t.flag f = b ∧ Leaves s t [] [f] []) ∧
      (s.afterDecimal = true → Leaves s t [] [f, .c] [])) ∧
  ∀ (s t : State) (i : Instr), exec i s = .next t →
    t.afterDecimal = ((i.mnemonic == .adc || i.mnemonic == .sbc) && s.flag .d)

/-! ### Jumps, branches and returns -/

/-- BRA and the eight branches on a flag: taken or not, PC becomes the address after the instruction, plus the
signed offset where taken, and nothing else changes (R261, R265 to R272, R275). The base of the offset is D25
and the wrap modulo 65536 D3, log 29. -/
def Obligations.RelativeBranches : Prop :=
  ∀ (s : State) (rr : Byte) (i : Instr) (taken : Bool),
    (i, taken) ∈ [(Instr.bra rr, true), (.bcc rr, !s.flag .c), (.bcs rr, s.flag .c),
      (.bne rr, !s.flag .z), (.beq rr, s.flag .z), (.bpl rr, !s.flag .n), (.bmi rr, s.flag .n),
      (.bvc rr, !s.flag .v), (.bvs rr, s.flag .v)] →
    ∃ t, exec i s = .next t ∧ t.pc = s.branchDest 2 taken rr ∧ Leaves s t [] [] []

/-- BBC and BBS on A and on a zero page byte (R263, R264). An interrupt request bit that the instruction
before stored to is free: the branch goes one way or the other (R352, R357; D26, log 20). The base of the offset
is D25 and the wrap modulo 65536 D3, log 29. -/
def Obligations.BitBranches : Prop :=
  ∀ (s : State) (b : Bool) (k : BitNo) (zz rr : Byte),
    (∃ t, exec (if b then .bbsAcc k rr else .bbcAcc k rr) s = .next t ∧
      t.pc = s.branchDest 2 (bitOf s.a k.toNat == b) rr ∧ Leaves s t [] [] []) ∧
    (∀ v u, s.read (zext16 zz) = .ok (v, u) →
      ∃ t, exec (if b then .bbsZp k zz rr else .bbcZp k zz rr) s = .next t ∧ Leaves s t [] [] [] ∧
        (s.staleRequestBit (zext16 zz) k = false → t.pc = s.branchDest 3 (bitOf v k.toNat == b) rr) ∧
        (s.staleRequestBit (zext16 zz) k = true →
          t.pc = s.branchDest 3 true rr ∨ t.pc = s.branchDest 3 false rr))

/-- JMP, its three forms (R260). `JMP ($hhFF)` stops the model: D10, log 25. -/
def Obligations.JumpInstructions : Prop :=
  ∀ (s : State) (hhll : Addr) (zz : Byte),
    (∃ t, exec (.jmpAbs hhll) s = .next t ∧ t.pc = hhll ∧ Leaves s t [] [] []) ∧
    (lowByte hhll ≠ 0xFF → s.isPlain hhll → s.isPlain (hhll + 1) →
      ∃ t, exec (.jmpInd hhll) s = .next t ∧ t.pc = joinBytes (s.peek (hhll + 1)) (s.peek hhll) ∧
        Leaves s t [] [] []) ∧
    (lowByte hhll = 0xFF → exec (.jmpInd hhll) s = .fault .jmpIndirectPageEnd) ∧
    (s.isPlain (zext16 zz) → s.isPlain (s.nextZp zz) →
      ∃ t, exec (.jmpZpInd zz) s = .next t ∧
        t.pc = joinBytes (s.peek (s.nextZp zz)) (s.peek (zext16 zz)) ∧ Leaves s t [] [] [])

/-- JSR, its three forms: the address of its last byte is pushed, and the pointer of the zero page indirect
form is read after the pushes (R262, R95). Which address is pushed is D19, log 27. -/
def Obligations.SubroutineCalls : Prop :=
  ∀ (s : State) (hhll : Addr) (zz ll : Byte), s.canCall →
    (∃ t, exec (.jsrAbs hhll) s = .next t ∧ t.pc = hhll ∧ Called s t (s.pc + 2)) ∧
    (∃ t, exec (.jsrSp ll) s = .next t ∧ t.pc.toNat = 0xFF00 + ll.toNat ∧ Called s t (s.pc + 1)) ∧
    (s.isPlain (zext16 zz) → s.isPlain (s.nextZp zz) →
      ∃ t, exec (.jsrZpInd zz) s = .next t ∧
        t.pc = joinBytes (t.peek (s.nextZp zz)) (t.peek (zext16 zz)) ∧ Called s t (s.pc + 1))

/-- RTS pulls PCL, then PCH, and adds 1; that FFFF wraps to 0000 is D3, log 29 (R274). An RTS that finds S and
the two pushed bytes as a JSR left them goes on after that JSR with S as before it, whatever the subroutine did
to the other registers, the flags and the rest of memory (R262; D19, log 27). -/
def Obligations.SubroutineReturn : Prop :=
  (∀ s : State, s.isPlain (s.stackAt (s.sp + 1)) → s.isPlain (s.stackAt (s.sp + 2)) →
    ∃ t, exec .rts s = .next t ∧ t.sp = s.sp + 2 ∧ Leaves s t [.sp] [] [] ∧
      t.pc = joinBytes (s.peek (s.stackAt (s.sp + 2))) (s.peek (s.stackAt (s.sp + 1))) + 1) ∧
  (∀ (s t r : State) (i : Instr), s.canCall → i.mnemonic = .jsr → exec i s = .next t →
    StackKept t r [s.stackAt s.sp, s.stackAt (s.sp - 1)] →
    ∃ u, exec .rts r = .next u ∧ u.pc = s.pc + BitVec.ofNat 16 i.len ∧ u.sp = s.sp ∧
      Leaves r u [.sp] [] [])

/-- RTI pulls PS, then PCL, then PCH, and does not adjust PC (R273). -/
def Obligations.ReturnFromInterrupt : Prop :=
  ∀ s : State, s.isPlain (s.stackAt (s.sp + 1)) → s.isPlain (s.stackAt (s.sp + 2)) →
    s.isPlain (s.stackAt (s.sp + 3)) →
    ∃ t, exec .rti s = .next t ∧ t.sp = s.sp + 3 ∧
      (∀ f : Flag, t.flag f = bitOf (s.peek (s.stackAt (s.sp + 1))) f.pos) ∧
      t.pc = joinBytes (s.peek (s.stackAt (s.sp + 3))) (s.peek (s.stackAt (s.sp + 2))) ∧
      Leaves s t [.sp] [.c, .z, .i, .d, .b, .t, .v, .n] []

/-! ### Interrupts, special instructions, reset -/

/-- BRK is the interrupt entry with B = 1, the return address plus 2 and the BRK vector, whatever I is (R290,
R320, R321; the order of the vector bytes is D2, log 32). With I = 1 and a source pending it is either that or
the same pushes and then the pending source's vector (R323, D16, log 22); the source accepted is the one that
was pending before the pushes, wherever these store. -/
def Obligations.BreakInstruction : Prop :=
  (∀ s : State, s.canEnter s.cfg.brkVector →
    ((s.flag .i = false ∨ ∀ l ∈ s.lines, l.pending = false) →
      ∃ t, exec .brk s = .next t ∧ Entered s t (s.pc + 2) s.cfg.brkVector true) ∧
    (∀ l ms, s.flag .i = true → Accepts s.lines l ms → s.canEnter l.src.vector →
      ∃ t, exec .brk s = .next t ∧
        (Entered s t (s.pc + 2) s.cfg.brkVector true ∨
          Entered (s.setLines ms) t (s.pc + 2) l.src.vector true))) ∧
  ∀ (s t : State) (pre post : List Line) (l : Line), s.flag .i = true → s.lines = pre ++ l :: post →
    l.pending = true → (∀ k ∈ pre, k.pending = false) → exec .brk s = .next t →
    ∃ u, ((s.advance 2).draw 1).enterPushes true = .ok u ∧
      (u.enterVector s.cfg.brkVector = .ok t ∨
        (u.setLines (u.lines.modify pre.length Line.accepted)).enterVector l.src.vector = .ok t)

/-- With I = 0 and a source pending, a step accepts the one of highest priority: `Accept(src)`, then the entry
with B = 0 and the address of the next instruction (R312, R313, R320; D2, D15, logs 32, 40). That the entry
changes no flag but B and I is D22, log 28 (R321). A CPU in the wait or stop state that wakes does the same
(R326; that waking and acceptance are one step is D17, log 23). The entry ends the hazard of a late decimal carry
(R350, log 18), and the stores of the instruction before it stay remembered (R352, U11; logs 20, 21). -/
def Obligations.InterruptAcceptance : Prop :=
  ∀ (s : State) (l : Line) (ms : List Line), s.noReset →
    (s.run = .running ∨ s.atBoundary.wakes = true) → s.flag .i = false →
    Accepts s.atBoundary.lines l ms → s.atBoundary.canEnter l.src.vector →
    ∃ t, step s = .next t ∧
      Entered ((s.atBoundary.setRun .running).setLines ms) t s.pc l.src.vector false ∧
      t.afterDecimal = false ∧ ∀ a ∈ s.lastWrites, a ∈ t.lastWrites

/-- An RTI that finds S and the three pushed bytes as an interrupt entry left them restores PC, S and all eight
flags, B as it was pushed, whatever the handler did to the flags and the rest of memory; A, X and Y stay as the
handler leaves them (R324). -/
def Obligations.ReturnUndoesEntry : Prop :=
  ∀ (s t r : State) (vec : Addr) (b : Bool), s.canEnter vec → s.enter vec b = .ok t →
    StackKept t r [s.stackAt s.sp, s.stackAt (s.sp - 1), s.stackAt (s.sp - 2)] →
    ∃ u, exec .rti r = .next u ∧ u.pc = s.pc ∧ u.sp = s.sp ∧ u.ps = s.ps.set .b b ∧
      Leaves r u [.sp] [.c, .z, .i, .d, .b, .t, .v, .n] []

/-- WIT enters the wait state and STP the stop state with PC after the instruction; STP on a product that has
it disabled is one NOP (D24, log 41); NOP only moves PC (R291 to R293, R51). -/
def Obligations.WaitStopAndNoOperation : Prop :=
  ∀ s : State,
    (∃ t, exec .wit s = .next t ∧ t.run = .waiting ∧ PassedBy s t 1 ∧
      Leaves s (t.setRun s.run) [] [] []) ∧
    (∃ t, exec .stp s = .next t ∧ t.run = (if s.cfg.stpEnabled then .stopped else s.run) ∧
      PassedBy s t 1 ∧ Leaves s (t.setRun s.run) [] [] []) ∧
    (∃ t, exec .nop s = .next t ∧ PassedBy s t 1 ∧ Leaves s t [] [] [])

/-- In the wait or stop state a wake event is a pending source, in the stop state an external one, and it counts
only with I = 0 where `WAKE_NEEDS_ACCEPT` holds; without one a step changes nothing but what the platform does,
and stops where no platform input is left; with one and I = 1 the step is that of the CPU running (R326; D17,
log 23). -/
def Obligations.SleepAndWake : Prop :=
  ∀ s : State, s.run ≠ .running →
    (s.wakes = true ↔ (∃ l ∈ s.lines, l.pending = true ∧ (s.run = .stopped → l.src.external = true)) ∧
      (s.cfg.wakeNeedsAccept = true → s.flag .i = false)) ∧
    (∀ ks rest, s.inputs = .requests ks :: rest → s.atBoundary.wakes = false →
      step s = .next s.atBoundary) ∧
    (s.inputs = [] → s.wakes = false → step s = .fault .noWakeEvent) ∧
    (s.noReset → s.atBoundary.wakes = true → step s = step (s.setRun .running))

/-- A reset at any boundary, in any run state: I is 1, the CPU runs, PC is the reset vector's contents, nothing
is pushed; every other register, the memory and the request and enable bits are the platform's (R340, R341; the
PC load is D2, log 4). That they come with the reset input, and that a source it gives no bits for keeps its
own, is the model's choice, log 14. -/
def Obligations.ResetEvent : Prop :=
  ∀ (s : State) (v : ResetValues) (rest : List Input), s.inputs = .reset v :: rest →
    ∃ t, step s = .next t ∧ t.flag .i = true ∧ t.run = .running ∧ t.a = v.a ∧ t.x = v.x ∧ t.y = v.y ∧
      t.sp = v.sp ∧ (∀ f : Flag, f ≠ .i → t.flag f = bitOf v.ps f.pos) ∧ t.inputs = rest ∧
      SameProduct s t ∧
      (∀ (k : Nat) (l : Line), s.lines[k]? = some l → t.lines[k]? = some (match v.bits[k]? with
        | some (r, e) => { l with request := r, enable := e }
        | none => l)) ∧
      Memory.wf t.mem = true ∧
      (∀ a : Addr, Memory.get t.mem a.toNat = Memory.get (Memory.ofCells v.image) a.toNat) ∧
      (∀ lo hi, Memory.get t.mem s.cfg.resetVector.toNat = some lo →
        Memory.get t.mem (s.cfg.resetVector + 1).toNat = some hi → t.pc = joinBytes hi lo)

/-- After reset I is 1 and the CPU runs (R53, R341), so that no interrupt is accepted; and the invariant holds.
The other registers of the model's reset state are DESIGN CHOICES, logs 1 to 7, and not stated here. -/
def Obligations.ResetState : Prop :=
  State.reset.flag .i = true ∧ State.reset.run = .running ∧ State.reset.acceptable = none ∧
    State.reset.Inv

/-! ### Every instruction -/

/-- No instruction writes a flag that the table of flag effects does not give it (R47). CLD directly after a
decimal ADC or SBC, which may leave C free (D26, log 18), is excepted. -/
def Obligations.FlagEffectsTable : Prop :=
  ∀ (s t : State) (i : Instr), exec i s = .next t → ¬(i = .cld ∧ s.afterDecimal = true) →
    ∀ f : Flag, f ∉ flagsWritten i.mnemonic → t.flag f = s.flag f

/-- No instruction writes a register that R31, R32 and R33 do not name it a writer of. -/
def Obligations.RegisterWriters : Prop :=
  ∀ (s t : State) (i : Instr), exec i s = .next t → ∀ r : Reg, r ∉ regsWritten i → t.reg r = s.reg r

/-- The instructions that R74 gives no write leave memory and every request and enable bit as they are. That
the read of an I/O location changes no request or enable bit is the model's choice, log 8. -/
def Obligations.NonStoringInstructions : Prop :=
  ∀ (s t : State) (i : Instr), exec i s = .next t → storesNothing i (s.flag .t) = true →
    t.mem = s.mem ∧ t.lines = s.lines ∧ t.lastWrites = []

/-- On a product with every address implemented and every ROM declared to ignore writes, every instruction that
the spec lets a program contain completes, in every state: no access fails and no instruction traps (R71, R300,
R301). Excepted are `JMP ($hhFF)` (R114) and MUL and DIV on a product without them (R113). -/
def Obligations.EveryInstructionCompletes : Prop :=
  ∀ (s : State) (i : Instr), s.implemented → i.wellFormed = true →
    ((i.mnemonic = .mul ∨ i.mnemonic = .div) → s.cfg.hasMulDiv = true) →
    ∃ t, exec i s = .next t

/-- What the product fixes never changes, and no step but a reset changes a byte of ROM (R54, R82). -/
def Obligations.ProductAndRomAreKept : Prop :=
  ∀ s t : State, step s = .next t →
    SameProduct s t ∧ (∀ a, t.kindAt a = s.kindAt a) ∧
      (s.noReset → ∀ a b, s.kindAt a = .rom b → t.peek a = s.peek a)

/-- Every step keeps the invariant: canonical memory (R70), the stop state only where STP is enabled (R326), a
late decimal carry only with D = 1 (R350), and only stores to plain memory or I/O remembered. -/
def Obligations.InvariantKept : Prop :=
  ∀ s t : State, s.Inv → step s = .next t → t.Inv

/-! ### Bytes just stored to, and where an access stops -/

/-- A byte of an instruction that the instruction before stored to is fetched as a free value, whatever the
address holds; any other is an ordinary read (R87; U11, log 21). -/
def Obligations.FetchOfAByteJustStored : Prop :=
  ∀ (s : State) (a : Addr),
    (a ∈ s.lastWrites → s.fetchByte a = .ok (Config.freeByte s.draws, s.draw 1)) ∧
    (a ∉ s.lastWrites → s.fetchByte a = s.read a)

/-- A read of an unimplemented address stops the model, whether it is the operand of an instruction that reads
one (M(X) with T = 1 included), a pull, or the fetch of an operation code (R82; U10, log 9). The address of M(X)
is D18, log 26. -/
def Obligations.UnimplementedReadStops : Prop :=
  ∀ (s : State) (a : Addr), s.kindAt a = .unimplemented →
    s.read a = .error (.unimplementedAddress a) ∧
    (∀ (i : Instr) (n : Mnemonic) (m : MemMode) (u : State), i.view = (n, .mem m) →
      n ∈ [.lda, .ldx, .ldy, .adc, .sbc, .and, .ora, .eor, .cmp, .cpx, .cpy, .bit, .tst, .inc, .dec, .asl, .lsr,
        .rol, .ror, .com, .rrf] →
      s.ea m = .ok (a, u) → exec i s = .fault (.unimplementedAddress a)) ∧
    (∀ (zz rr : Byte) (k : BitNo), zext16 zz = a →
      ∀ i ∈ [Instr.bbcZp k zz rr, .bbsZp k zz rr, .clbZp k zz, .sebZp k zz],
        exec i s = .fault (.unimplementedAddress a)) ∧
    (∀ (i : Instr) (n : Mnemonic) (o : Src) (v : Byte) (u : State), i.view = (n, .ofSrc o) →
      n ∈ [.adc, .sbc, .and, .ora, .eor, .cmp] → s.flag .t = true → s.mxAddr = a → s.operand o = .ok (v, u) →
      exec i s = .fault (.unimplementedAddress a)) ∧
    (s.stackAt (s.sp + 1) = a → ∀ i ∈ [Instr.pla, .plp, .rts, .rti],
      exec i s = .fault (.unimplementedAddress a)) ∧
    (s.executesNext → s.pc = a → a ∉ s.lastWrites → step s = .fault (.unimplementedAddress a))

/-- A write to an unimplemented address stops the model, and so does one to ROM of which the platform does not
say that it has no effect, whether it is a store, a read-modify-write, a result for M(X) with T = 1, or the first
push of an instruction that pushes (R82; U10, log 9). The address of M(X) is D18, log 26. -/
def Obligations.UnwritableStoreStops : Prop :=
  ∀ (s : State) (a : Addr) (f : Fault),
    (s.kindAt a = .unimplemented ∧ f = .unimplementedAddress a ∨ s.kindAt a = .rom false ∧ f = .romWrite a) →
    (∀ v, s.write a v = .error f) ∧
    (∀ (i : Instr) (n : Mnemonic) (m : MemMode) (u : State), i.view = (n, .mem m) →
      n ∈ [.sta, .stx, .sty, .inc, .dec, .asl, .lsr, .rol, .ror, .com, .rrf] →
      s.ea m = .ok (a, u) → exec i s = .fault f) ∧
    (∀ (nn zz : Byte) (k : BitNo), zext16 zz = a →
      ∀ i ∈ [Instr.ldm nn zz, .clbZp k zz, .sebZp k zz], exec i s = .fault f) ∧
    (∀ (i : Instr) (n : Mnemonic) (o : Src) (v : Byte) (u : State), i.view = (n, .ofSrc o) →
      n ∈ [.lda, .adc, .sbc, .and, .ora, .eor] → s.flag .t = true → s.mxAddr = a → s.operand o = .ok (v, u) →
      exec i s = .fault f) ∧
    (∀ (hhll : Addr) (zz ll : Byte), s.stackAddr = a →
      ∀ i ∈ [Instr.pha, .php, .brk, .jsrAbs hhll, .jsrSp ll, .jsrZpInd zz], exec i s = .fault f)
end

