-- ==== Sys2Proof/Laws/State.lean ====
section
/-!
SUPPORT. One lemma per field per named update of the state, and what each update leaves of a flag, of a
byte of memory, of the kind of an address and of the pending source. All hold by definition.
-/

namespace Sys2Proof.Machine

section
variable (s : State) (v : Byte)

@[simp] theorem State.setA_a : (s.setA v).a = v := rfl
@[simp] theorem State.setA_x : (s.setA v).x = s.x := rfl
@[simp] theorem State.setA_y : (s.setA v).y = s.y := rfl
@[simp] theorem State.setA_sp : (s.setA v).sp = s.sp := rfl
@[simp] theorem State.setA_ps : (s.setA v).ps = s.ps := rfl
@[simp] theorem State.setA_pc : (s.setA v).pc = s.pc := rfl
@[simp] theorem State.setA_run : (s.setA v).run = s.run := rfl
@[simp] theorem State.setA_mem : (s.setA v).mem = s.mem := rfl
@[simp] theorem State.setA_lines : (s.setA v).lines = s.lines := rfl
@[simp] theorem State.setA_cfg : (s.setA v).cfg = s.cfg := rfl
@[simp] theorem State.setA_inputs : (s.setA v).inputs = s.inputs := rfl
@[simp] theorem State.setA_draws : (s.setA v).draws = s.draws := rfl
@[simp] theorem State.setA_afterDecimal : (s.setA v).afterDecimal = s.afterDecimal := rfl
@[simp] theorem State.setA_lastWrites : (s.setA v).lastWrites = s.lastWrites := rfl
@[simp] theorem State.setA_flag (g : Flag) : (s.setA v).flag g = s.flag g := rfl
@[simp] theorem State.setA_peek (e : Addr) : (s.setA v).peek e = s.peek e := rfl
@[simp] theorem State.setA_kindAt (e : Addr) : (s.setA v).kindAt e = s.kindAt e := rfl
@[simp] theorem State.setA_firstPending : (s.setA v).firstPending = s.firstPending := rfl
@[simp] theorem State.setA_stackAddr : (s.setA v).stackAddr = s.stackAddr := rfl
@[simp] theorem State.setA_nextZp (p : Byte) : (s.setA v).nextZp p = s.nextZp p := rfl

end

section
variable (s : State) (v : Byte)

@[simp] theorem State.setX_a : (s.setX v).a = s.a := rfl
@[simp] theorem State.setX_x : (s.setX v).x = v := rfl
@[simp] theorem State.setX_y : (s.setX v).y = s.y := rfl
@[simp] theorem State.setX_sp : (s.setX v).sp = s.sp := rfl
@[simp] theorem State.setX_ps : (s.setX v).ps = s.ps := rfl
@[simp] theorem State.setX_pc : (s.setX v).pc = s.pc := rfl
@[simp] theorem State.setX_run : (s.setX v).run = s.run := rfl
@[simp] theorem State.setX_mem : (s.setX v).mem = s.mem := rfl
@[simp] theorem State.setX_lines : (s.setX v).lines = s.lines := rfl
@[simp] theorem State.setX_cfg : (s.setX v).cfg = s.cfg := rfl
@[simp] theorem State.setX_inputs : (s.setX v).inputs = s.inputs := rfl
@[simp] theorem State.setX_draws : (s.setX v).draws = s.draws := rfl
@[simp] theorem State.setX_afterDecimal : (s.setX v).afterDecimal = s.afterDecimal := rfl
@[simp] theorem State.setX_lastWrites : (s.setX v).lastWrites = s.lastWrites := rfl
@[simp] theorem State.setX_flag (g : Flag) : (s.setX v).flag g = s.flag g := rfl
@[simp] theorem State.setX_peek (e : Addr) : (s.setX v).peek e = s.peek e := rfl
@[simp] theorem State.setX_kindAt (e : Addr) : (s.setX v).kindAt e = s.kindAt e := rfl
@[simp] theorem State.setX_firstPending : (s.setX v).firstPending = s.firstPending := rfl
@[simp] theorem State.setX_stackAddr : (s.setX v).stackAddr = s.stackAddr := rfl
@[simp] theorem State.setX_nextZp (p : Byte) : (s.setX v).nextZp p = s.nextZp p := rfl

end

section
variable (s : State) (v : Byte)

@[simp] theorem State.setY_a : (s.setY v).a = s.a := rfl
@[simp] theorem State.setY_x : (s.setY v).x = s.x := rfl
@[simp] theorem State.setY_y : (s.setY v).y = v := rfl
@[simp] theorem State.setY_sp : (s.setY v).sp = s.sp := rfl
@[simp] theorem State.setY_ps : (s.setY v).ps = s.ps := rfl
@[simp] theorem State.setY_pc : (s.setY v).pc = s.pc := rfl
@[simp] theorem State.setY_run : (s.setY v).run = s.run := rfl
@[simp] theorem State.setY_mem : (s.setY v).mem = s.mem := rfl
@[simp] theorem State.setY_lines : (s.setY v).lines = s.lines := rfl
@[simp] theorem State.setY_cfg : (s.setY v).cfg = s.cfg := rfl
@[simp] theorem State.setY_inputs : (s.setY v).inputs = s.inputs := rfl
@[simp] theorem State.setY_draws : (s.setY v).draws = s.draws := rfl
@[simp] theorem State.setY_afterDecimal : (s.setY v).afterDecimal = s.afterDecimal := rfl
@[simp] theorem State.setY_lastWrites : (s.setY v).lastWrites = s.lastWrites := rfl
@[simp] theorem State.setY_flag (g : Flag) : (s.setY v).flag g = s.flag g := rfl
@[simp] theorem State.setY_peek (e : Addr) : (s.setY v).peek e = s.peek e := rfl
@[simp] theorem State.setY_kindAt (e : Addr) : (s.setY v).kindAt e = s.kindAt e := rfl
@[simp] theorem State.setY_firstPending : (s.setY v).firstPending = s.firstPending := rfl
@[simp] theorem State.setY_stackAddr : (s.setY v).stackAddr = s.stackAddr := rfl
@[simp] theorem State.setY_nextZp (p : Byte) : (s.setY v).nextZp p = s.nextZp p := rfl

end

section
variable (s : State) (v : Byte)

@[simp] theorem State.setSp_a : (s.setSp v).a = s.a := rfl
@[simp] theorem State.setSp_x : (s.setSp v).x = s.x := rfl
@[simp] theorem State.setSp_y : (s.setSp v).y = s.y := rfl
@[simp] theorem State.setSp_sp : (s.setSp v).sp = v := rfl
@[simp] theorem State.setSp_ps : (s.setSp v).ps = s.ps := rfl
@[simp] theorem State.setSp_pc : (s.setSp v).pc = s.pc := rfl
@[simp] theorem State.setSp_run : (s.setSp v).run = s.run := rfl
@[simp] theorem State.setSp_mem : (s.setSp v).mem = s.mem := rfl
@[simp] theorem State.setSp_lines : (s.setSp v).lines = s.lines := rfl
@[simp] theorem State.setSp_cfg : (s.setSp v).cfg = s.cfg := rfl
@[simp] theorem State.setSp_inputs : (s.setSp v).inputs = s.inputs := rfl
@[simp] theorem State.setSp_draws : (s.setSp v).draws = s.draws := rfl
@[simp] theorem State.setSp_afterDecimal : (s.setSp v).afterDecimal = s.afterDecimal := rfl
@[simp] theorem State.setSp_lastWrites : (s.setSp v).lastWrites = s.lastWrites := rfl
@[simp] theorem State.setSp_flag (g : Flag) : (s.setSp v).flag g = s.flag g := rfl
@[simp] theorem State.setSp_peek (e : Addr) : (s.setSp v).peek e = s.peek e := rfl
@[simp] theorem State.setSp_kindAt (e : Addr) : (s.setSp v).kindAt e = s.kindAt e := rfl
@[simp] theorem State.setSp_firstPending : (s.setSp v).firstPending = s.firstPending := rfl
@[simp] theorem State.setSp_nextZp (p : Byte) : (s.setSp v).nextZp p = s.nextZp p := rfl

end

section
variable (s : State) (v : Status)

@[simp] theorem State.setPs_a : (s.setPs v).a = s.a := rfl
@[simp] theorem State.setPs_x : (s.setPs v).x = s.x := rfl
@[simp] theorem State.setPs_y : (s.setPs v).y = s.y := rfl
@[simp] theorem State.setPs_sp : (s.setPs v).sp = s.sp := rfl
@[simp] theorem State.setPs_ps : (s.setPs v).ps = v := rfl
@[simp] theorem State.setPs_pc : (s.setPs v).pc = s.pc := rfl
@[simp] theorem State.setPs_run : (s.setPs v).run = s.run := rfl
@[simp] theorem State.setPs_mem : (s.setPs v).mem = s.mem := rfl
@[simp] theorem State.setPs_lines : (s.setPs v).lines = s.lines := rfl
@[simp] theorem State.setPs_cfg : (s.setPs v).cfg = s.cfg := rfl
@[simp] theorem State.setPs_inputs : (s.setPs v).inputs = s.inputs := rfl
@[simp] theorem State.setPs_draws : (s.setPs v).draws = s.draws := rfl
@[simp] theorem State.setPs_afterDecimal : (s.setPs v).afterDecimal = s.afterDecimal := rfl
@[simp] theorem State.setPs_lastWrites : (s.setPs v).lastWrites = s.lastWrites := rfl
@[simp] theorem State.setPs_peek (e : Addr) : (s.setPs v).peek e = s.peek e := rfl
@[simp] theorem State.setPs_kindAt (e : Addr) : (s.setPs v).kindAt e = s.kindAt e := rfl
@[simp] theorem State.setPs_firstPending : (s.setPs v).firstPending = s.firstPending := rfl
@[simp] theorem State.setPs_stackAddr : (s.setPs v).stackAddr = s.stackAddr := rfl
@[simp] theorem State.setPs_nextZp (p : Byte) : (s.setPs v).nextZp p = s.nextZp p := rfl

end

section
variable (s : State) (v : Addr)

@[simp] theorem State.setPc_a : (s.setPc v).a = s.a := rfl
@[simp] theorem State.setPc_x : (s.setPc v).x = s.x := rfl
@[simp] theorem State.setPc_y : (s.setPc v).y = s.y := rfl
@[simp] theorem State.setPc_sp : (s.setPc v).sp = s.sp := rfl
@[simp] theorem State.setPc_ps : (s.setPc v).ps = s.ps := rfl
@[simp] theorem State.setPc_pc : (s.setPc v).pc = v := rfl
@[simp] theorem State.setPc_run : (s.setPc v).run = s.run := rfl
@[simp] theorem State.setPc_mem : (s.setPc v).mem = s.mem := rfl
@[simp] theorem State.setPc_lines : (s.setPc v).lines = s.lines := rfl
@[simp] theorem State.setPc_cfg : (s.setPc v).cfg = s.cfg := rfl
@[simp] theorem State.setPc_inputs : (s.setPc v).inputs = s.inputs := rfl
@[simp] theorem State.setPc_draws : (s.setPc v).draws = s.draws := rfl
@[simp] theorem State.setPc_afterDecimal : (s.setPc v).afterDecimal = s.afterDecimal := rfl
@[simp] theorem State.setPc_lastWrites : (s.setPc v).lastWrites = s.lastWrites := rfl
@[simp] theorem State.setPc_flag (g : Flag) : (s.setPc v).flag g = s.flag g := rfl
@[simp] theorem State.setPc_peek (e : Addr) : (s.setPc v).peek e = s.peek e := rfl
@[simp] theorem State.setPc_kindAt (e : Addr) : (s.setPc v).kindAt e = s.kindAt e := rfl
@[simp] theorem State.setPc_firstPending : (s.setPc v).firstPending = s.firstPending := rfl
@[simp] theorem State.setPc_stackAddr : (s.setPc v).stackAddr = s.stackAddr := rfl
@[simp] theorem State.setPc_nextZp (p : Byte) : (s.setPc v).nextZp p = s.nextZp p := rfl

end

section
variable (s : State) (r : RunState)

@[simp] theorem State.setRun_a : (s.setRun r).a = s.a := rfl
@[simp] theorem State.setRun_x : (s.setRun r).x = s.x := rfl
@[simp] theorem State.setRun_y : (s.setRun r).y = s.y := rfl
@[simp] theorem State.setRun_sp : (s.setRun r).sp = s.sp := rfl
@[simp] theorem State.setRun_ps : (s.setRun r).ps = s.ps := rfl
@[simp] theorem State.setRun_pc : (s.setRun r).pc = s.pc := rfl
@[simp] theorem State.setRun_run : (s.setRun r).run = r := rfl
@[simp] theorem State.setRun_mem : (s.setRun r).mem = s.mem := rfl
@[simp] theorem State.setRun_lines : (s.setRun r).lines = s.lines := rfl
@[simp] theorem State.setRun_cfg : (s.setRun r).cfg = s.cfg := rfl
@[simp] theorem State.setRun_inputs : (s.setRun r).inputs = s.inputs := rfl
@[simp] theorem State.setRun_draws : (s.setRun r).draws = s.draws := rfl
@[simp] theorem State.setRun_afterDecimal : (s.setRun r).afterDecimal = s.afterDecimal := rfl
@[simp] theorem State.setRun_lastWrites : (s.setRun r).lastWrites = s.lastWrites := rfl
@[simp] theorem State.setRun_flag (g : Flag) : (s.setRun r).flag g = s.flag g := rfl
@[simp] theorem State.setRun_peek (e : Addr) : (s.setRun r).peek e = s.peek e := rfl
@[simp] theorem State.setRun_kindAt (e : Addr) : (s.setRun r).kindAt e = s.kindAt e := rfl
@[simp] theorem State.setRun_firstPending : (s.setRun r).firstPending = s.firstPending := rfl
@[simp] theorem State.setRun_stackAddr : (s.setRun r).stackAddr = s.stackAddr := rfl
@[simp] theorem State.setRun_nextZp (p : Byte) : (s.setRun r).nextZp p = s.nextZp p := rfl

end

section
variable (s : State) (m : Memory)

@[simp] theorem State.setMem_a : (s.setMem m).a = s.a := rfl
@[simp] theorem State.setMem_x : (s.setMem m).x = s.x := rfl
@[simp] theorem State.setMem_y : (s.setMem m).y = s.y := rfl
@[simp] theorem State.setMem_sp : (s.setMem m).sp = s.sp := rfl
@[simp] theorem State.setMem_ps : (s.setMem m).ps = s.ps := rfl
@[simp] theorem State.setMem_pc : (s.setMem m).pc = s.pc := rfl
@[simp] theorem State.setMem_run : (s.setMem m).run = s.run := rfl
@[simp] theorem State.setMem_mem : (s.setMem m).mem = m := rfl
@[simp] theorem State.setMem_lines : (s.setMem m).lines = s.lines := rfl
@[simp] theorem State.setMem_cfg : (s.setMem m).cfg = s.cfg := rfl
@[simp] theorem State.setMem_inputs : (s.setMem m).inputs = s.inputs := rfl
@[simp] theorem State.setMem_draws : (s.setMem m).draws = s.draws := rfl
@[simp] theorem State.setMem_afterDecimal : (s.setMem m).afterDecimal = s.afterDecimal := rfl
@[simp] theorem State.setMem_lastWrites : (s.setMem m).lastWrites = s.lastWrites := rfl
@[simp] theorem State.setMem_flag (g : Flag) : (s.setMem m).flag g = s.flag g := rfl
@[simp] theorem State.setMem_kindAt (e : Addr) : (s.setMem m).kindAt e = s.kindAt e := rfl
@[simp] theorem State.setMem_firstPending : (s.setMem m).firstPending = s.firstPending := rfl
@[simp] theorem State.setMem_stackAddr : (s.setMem m).stackAddr = s.stackAddr := rfl
@[simp] theorem State.setMem_nextZp (p : Byte) : (s.setMem m).nextZp p = s.nextZp p := rfl

end

section
variable (s : State) (l : List Line)

@[simp] theorem State.setLines_a : (s.setLines l).a = s.a := rfl
@[simp] theorem State.setLines_x : (s.setLines l).x = s.x := rfl
@[simp] theorem State.setLines_y : (s.setLines l).y = s.y := rfl
@[simp] theorem State.setLines_sp : (s.setLines l).sp = s.sp := rfl
@[simp] theorem State.setLines_ps : (s.setLines l).ps = s.ps := rfl
@[simp] theorem State.setLines_pc : (s.setLines l).pc = s.pc := rfl
@[simp] theorem State.setLines_run : (s.setLines l).run = s.run := rfl
@[simp] theorem State.setLines_mem : (s.setLines l).mem = s.mem := rfl
@[simp] theorem State.setLines_lines : (s.setLines l).lines = l := rfl
@[simp] theorem State.setLines_cfg : (s.setLines l).cfg = s.cfg := rfl
@[simp] theorem State.setLines_inputs : (s.setLines l).inputs = s.inputs := rfl
@[simp] theorem State.setLines_draws : (s.setLines l).draws = s.draws := rfl
@[simp] theorem State.setLines_afterDecimal : (s.setLines l).afterDecimal = s.afterDecimal := rfl
@[simp] theorem State.setLines_lastWrites : (s.setLines l).lastWrites = s.lastWrites := rfl
@[simp] theorem State.setLines_flag (g : Flag) : (s.setLines l).flag g = s.flag g := rfl
@[simp] theorem State.setLines_peek (e : Addr) : (s.setLines l).peek e = s.peek e := rfl
@[simp] theorem State.setLines_stackAddr : (s.setLines l).stackAddr = s.stackAddr := rfl
@[simp] theorem State.setLines_nextZp (p : Byte) : (s.setLines l).nextZp p = s.nextZp p := rfl

end

section
variable (s : State) (l : List Input)

@[simp] theorem State.setInputs_a : (s.setInputs l).a = s.a := rfl
@[simp] theorem State.setInputs_x : (s.setInputs l).x = s.x := rfl
@[simp] theorem State.setInputs_y : (s.setInputs l).y = s.y := rfl
@[simp] theorem State.setInputs_sp : (s.setInputs l).sp = s.sp := rfl
@[simp] theorem State.setInputs_ps : (s.setInputs l).ps = s.ps := rfl
@[simp] theorem State.setInputs_pc : (s.setInputs l).pc = s.pc := rfl
@[simp] theorem State.setInputs_run : (s.setInputs l).run = s.run := rfl
@[simp] theorem State.setInputs_mem : (s.setInputs l).mem = s.mem := rfl
@[simp] theorem State.setInputs_lines : (s.setInputs l).lines = s.lines := rfl
@[simp] theorem State.setInputs_cfg : (s.setInputs l).cfg = s.cfg := rfl
@[simp] theorem State.setInputs_inputs : (s.setInputs l).inputs = l := rfl
@[simp] theorem State.setInputs_draws : (s.setInputs l).draws = s.draws := rfl
@[simp] theorem State.setInputs_afterDecimal : (s.setInputs l).afterDecimal = s.afterDecimal := rfl
@[simp] theorem State.setInputs_lastWrites : (s.setInputs l).lastWrites = s.lastWrites := rfl
@[simp] theorem State.setInputs_flag (g : Flag) : (s.setInputs l).flag g = s.flag g := rfl
@[simp] theorem State.setInputs_peek (e : Addr) : (s.setInputs l).peek e = s.peek e := rfl
@[simp] theorem State.setInputs_kindAt (e : Addr) : (s.setInputs l).kindAt e = s.kindAt e := rfl
@[simp] theorem State.setInputs_firstPending : (s.setInputs l).firstPending = s.firstPending := rfl
@[simp] theorem State.setInputs_stackAddr : (s.setInputs l).stackAddr = s.stackAddr := rfl
@[simp] theorem State.setInputs_nextZp (p : Byte) : (s.setInputs l).nextZp p = s.nextZp p := rfl

end

section
variable (s : State) (n : Nat)

@[simp] theorem State.draw_a : (s.draw n).a = s.a := rfl
@[simp] theorem State.draw_x : (s.draw n).x = s.x := rfl
@[simp] theorem State.draw_y : (s.draw n).y = s.y := rfl
@[simp] theorem State.draw_sp : (s.draw n).sp = s.sp := rfl
@[simp] theorem State.draw_ps : (s.draw n).ps = s.ps := rfl
@[simp] theorem State.draw_pc : (s.draw n).pc = s.pc := rfl
@[simp] theorem State.draw_run : (s.draw n).run = s.run := rfl
@[simp] theorem State.draw_mem : (s.draw n).mem = s.mem := rfl
@[simp] theorem State.draw_lines : (s.draw n).lines = s.lines := rfl
@[simp] theorem State.draw_cfg : (s.draw n).cfg = s.cfg := rfl
@[simp] theorem State.draw_inputs : (s.draw n).inputs = s.inputs := rfl
@[simp] theorem State.draw_draws : (s.draw n).draws = s.draws + n := rfl
@[simp] theorem State.draw_afterDecimal : (s.draw n).afterDecimal = s.afterDecimal := rfl
@[simp] theorem State.draw_lastWrites : (s.draw n).lastWrites = s.lastWrites := rfl
@[simp] theorem State.draw_flag (g : Flag) : (s.draw n).flag g = s.flag g := rfl
@[simp] theorem State.draw_peek (e : Addr) : (s.draw n).peek e = s.peek e := rfl
@[simp] theorem State.draw_kindAt (e : Addr) : (s.draw n).kindAt e = s.kindAt e := rfl
@[simp] theorem State.draw_firstPending : (s.draw n).firstPending = s.firstPending := rfl
@[simp] theorem State.draw_stackAddr : (s.draw n).stackAddr = s.stackAddr := rfl
@[simp] theorem State.draw_nextZp (p : Byte) : (s.draw n).nextZp p = s.nextZp p := rfl

end

section
variable (s : State) (b : Bool)

@[simp] theorem State.setAfterDecimal_a : (s.setAfterDecimal b).a = s.a := rfl
@[simp] theorem State.setAfterDecimal_x : (s.setAfterDecimal b).x = s.x := rfl
@[simp] theorem State.setAfterDecimal_y : (s.setAfterDecimal b).y = s.y := rfl
@[simp] theorem State.setAfterDecimal_sp : (s.setAfterDecimal b).sp = s.sp := rfl
@[simp] theorem State.setAfterDecimal_ps : (s.setAfterDecimal b).ps = s.ps := rfl
@[simp] theorem State.setAfterDecimal_pc : (s.setAfterDecimal b).pc = s.pc := rfl
@[simp] theorem State.setAfterDecimal_run : (s.setAfterDecimal b).run = s.run := rfl
@[simp] theorem State.setAfterDecimal_mem : (s.setAfterDecimal b).mem = s.mem := rfl
@[simp] theorem State.setAfterDecimal_lines : (s.setAfterDecimal b).lines = s.lines := rfl
@[simp] theorem State.setAfterDecimal_cfg : (s.setAfterDecimal b).cfg = s.cfg := rfl
@[simp] theorem State.setAfterDecimal_inputs : (s.setAfterDecimal b).inputs = s.inputs := rfl
@[simp] theorem State.setAfterDecimal_draws : (s.setAfterDecimal b).draws = s.draws := rfl
@[simp] theorem State.setAfterDecimal_afterDecimal : (s.setAfterDecimal b).afterDecimal = b := rfl
@[simp] theorem State.setAfterDecimal_lastWrites : (s.setAfterDecimal b).lastWrites = s.lastWrites := rfl
@[simp] theorem State.setAfterDecimal_flag (g : Flag) : (s.setAfterDecimal b).flag g = s.flag g := rfl
@[simp] theorem State.setAfterDecimal_peek (e : Addr) : (s.setAfterDecimal b).peek e = s.peek e := rfl
@[simp] theorem State.setAfterDecimal_kindAt (e : Addr) : (s.setAfterDecimal b).kindAt e = s.kindAt e := rfl
@[simp] theorem State.setAfterDecimal_firstPending : (s.setAfterDecimal b).firstPending = s.firstPending := rfl
@[simp] theorem State.setAfterDecimal_stackAddr : (s.setAfterDecimal b).stackAddr = s.stackAddr := rfl
@[simp] theorem State.setAfterDecimal_nextZp (p : Byte) : (s.setAfterDecimal b).nextZp p = s.nextZp p := rfl

end

section
variable (s : State) (l : List Addr)

@[simp] theorem State.setLastWrites_a : (s.setLastWrites l).a = s.a := rfl
@[simp] theorem State.setLastWrites_x : (s.setLastWrites l).x = s.x := rfl
@[simp] theorem State.setLastWrites_y : (s.setLastWrites l).y = s.y := rfl
@[simp] theorem State.setLastWrites_sp : (s.setLastWrites l).sp = s.sp := rfl
@[simp] theorem State.setLastWrites_ps : (s.setLastWrites l).ps = s.ps := rfl
@[simp] theorem State.setLastWrites_pc : (s.setLastWrites l).pc = s.pc := rfl
@[simp] theorem State.setLastWrites_run : (s.setLastWrites l).run = s.run := rfl
@[simp] theorem State.setLastWrites_mem : (s.setLastWrites l).mem = s.mem := rfl
@[simp] theorem State.setLastWrites_lines : (s.setLastWrites l).lines = s.lines := rfl
@[simp] theorem State.setLastWrites_cfg : (s.setLastWrites l).cfg = s.cfg := rfl
@[simp] theorem State.setLastWrites_inputs : (s.setLastWrites l).inputs = s.inputs := rfl
@[simp] theorem State.setLastWrites_draws : (s.setLastWrites l).draws = s.draws := rfl
@[simp] theorem State.setLastWrites_afterDecimal : (s.setLastWrites l).afterDecimal = s.afterDecimal := rfl
@[simp] theorem State.setLastWrites_lastWrites : (s.setLastWrites l).lastWrites = l := rfl
@[simp] theorem State.setLastWrites_flag (g : Flag) : (s.setLastWrites l).flag g = s.flag g := rfl
@[simp] theorem State.setLastWrites_peek (e : Addr) : (s.setLastWrites l).peek e = s.peek e := rfl
@[simp] theorem State.setLastWrites_kindAt (e : Addr) : (s.setLastWrites l).kindAt e = s.kindAt e := rfl
@[simp] theorem State.setLastWrites_firstPending : (s.setLastWrites l).firstPending = s.firstPending := rfl
@[simp] theorem State.setLastWrites_stackAddr : (s.setLastWrites l).stackAddr = s.stackAddr := rfl
@[simp] theorem State.setLastWrites_nextZp (p : Byte) : (s.setLastWrites l).nextZp p = s.nextZp p := rfl

end

section
variable (s : State) (n : Nat)

@[simp] theorem State.advance_a : (s.advance n).a = s.a := rfl
@[simp] theorem State.advance_x : (s.advance n).x = s.x := rfl
@[simp] theorem State.advance_y : (s.advance n).y = s.y := rfl
@[simp] theorem State.advance_sp : (s.advance n).sp = s.sp := rfl
@[simp] theorem State.advance_ps : (s.advance n).ps = s.ps := rfl
@[simp] theorem State.advance_pc : (s.advance n).pc = s.pc + BitVec.ofNat 16 n := rfl
@[simp] theorem State.advance_run : (s.advance n).run = s.run := rfl
@[simp] theorem State.advance_mem : (s.advance n).mem = s.mem := rfl
@[simp] theorem State.advance_lines : (s.advance n).lines = s.lines := rfl
@[simp] theorem State.advance_cfg : (s.advance n).cfg = s.cfg := rfl
@[simp] theorem State.advance_inputs : (s.advance n).inputs = s.inputs := rfl
@[simp] theorem State.advance_draws : (s.advance n).draws = s.draws := rfl
@[simp] theorem State.advance_afterDecimal : (s.advance n).afterDecimal = false := rfl
@[simp] theorem State.advance_lastWrites : (s.advance n).lastWrites = [] := rfl
@[simp] theorem State.advance_flag (g : Flag) : (s.advance n).flag g = s.flag g := rfl
@[simp] theorem State.advance_peek (e : Addr) : (s.advance n).peek e = s.peek e := rfl
@[simp] theorem State.advance_kindAt (e : Addr) : (s.advance n).kindAt e = s.kindAt e := rfl
@[simp] theorem State.advance_firstPending : (s.advance n).firstPending = s.firstPending := rfl
@[simp] theorem State.advance_stackAddr : (s.advance n).stackAddr = s.stackAddr := rfl
@[simp] theorem State.advance_nextZp (p : Byte) : (s.advance n).nextZp p = s.nextZp p := rfl

end

section
variable (s : State) (f : Flag) (b : Bool)

@[simp] theorem State.setFlag_a : (s.setFlag f b).a = s.a := rfl
@[simp] theorem State.setFlag_x : (s.setFlag f b).x = s.x := rfl
@[simp] theorem State.setFlag_y : (s.setFlag f b).y = s.y := rfl
@[simp] theorem State.setFlag_sp : (s.setFlag f b).sp = s.sp := rfl
@[simp] theorem State.setFlag_ps : (s.setFlag f b).ps = s.ps.set f b := rfl
@[simp] theorem State.setFlag_pc : (s.setFlag f b).pc = s.pc := rfl
@[simp] theorem State.setFlag_run : (s.setFlag f b).run = s.run := rfl
@[simp] theorem State.setFlag_mem : (s.setFlag f b).mem = s.mem := rfl
@[simp] theorem State.setFlag_lines : (s.setFlag f b).lines = s.lines := rfl
@[simp] theorem State.setFlag_cfg : (s.setFlag f b).cfg = s.cfg := rfl
@[simp] theorem State.setFlag_inputs : (s.setFlag f b).inputs = s.inputs := rfl
@[simp] theorem State.setFlag_draws : (s.setFlag f b).draws = s.draws := rfl
@[simp] theorem State.setFlag_afterDecimal : (s.setFlag f b).afterDecimal = s.afterDecimal := rfl
@[simp] theorem State.setFlag_lastWrites : (s.setFlag f b).lastWrites = s.lastWrites := rfl
@[simp] theorem State.setFlag_peek (e : Addr) : (s.setFlag f b).peek e = s.peek e := rfl
@[simp] theorem State.setFlag_kindAt (e : Addr) : (s.setFlag f b).kindAt e = s.kindAt e := rfl
@[simp] theorem State.setFlag_firstPending : (s.setFlag f b).firstPending = s.firstPending := rfl
@[simp] theorem State.setFlag_stackAddr : (s.setFlag f b).stackAddr = s.stackAddr := rfl
@[simp] theorem State.setFlag_nextZp (p : Byte) : (s.setFlag f b).nextZp p = s.nextZp p := rfl

end

section
variable (s : State) (v : Byte)

@[simp] theorem State.setNZ_a : (s.setNZ v).a = s.a := rfl
@[simp] theorem State.setNZ_x : (s.setNZ v).x = s.x := rfl
@[simp] theorem State.setNZ_y : (s.setNZ v).y = s.y := rfl
@[simp] theorem State.setNZ_sp : (s.setNZ v).sp = s.sp := rfl
@[simp] theorem State.setNZ_pc : (s.setNZ v).pc = s.pc := rfl
@[simp] theorem State.setNZ_run : (s.setNZ v).run = s.run := rfl
@[simp] theorem State.setNZ_mem : (s.setNZ v).mem = s.mem := rfl
@[simp] theorem State.setNZ_lines : (s.setNZ v).lines = s.lines := rfl
@[simp] theorem State.setNZ_cfg : (s.setNZ v).cfg = s.cfg := rfl
@[simp] theorem State.setNZ_inputs : (s.setNZ v).inputs = s.inputs := rfl
@[simp] theorem State.setNZ_draws : (s.setNZ v).draws = s.draws := rfl
@[simp] theorem State.setNZ_afterDecimal : (s.setNZ v).afterDecimal = s.afterDecimal := rfl
@[simp] theorem State.setNZ_lastWrites : (s.setNZ v).lastWrites = s.lastWrites := rfl
@[simp] theorem State.setNZ_peek (e : Addr) : (s.setNZ v).peek e = s.peek e := rfl
@[simp] theorem State.setNZ_kindAt (e : Addr) : (s.setNZ v).kindAt e = s.kindAt e := rfl
@[simp] theorem State.setNZ_firstPending : (s.setNZ v).firstPending = s.firstPending := rfl
@[simp] theorem State.setNZ_stackAddr : (s.setNZ v).stackAddr = s.stackAddr := rfl
@[simp] theorem State.setNZ_nextZp (p : Byte) : (s.setNZ v).nextZp p = s.nextZp p := rfl

end

section
variable (s : State) (q : AluResult)

@[simp] theorem State.setNVZC_a : (s.setNVZC q).a = s.a := rfl
@[simp] theorem State.setNVZC_x : (s.setNVZC q).x = s.x := rfl
@[simp] theorem State.setNVZC_y : (s.setNVZC q).y = s.y := rfl
@[simp] theorem State.setNVZC_sp : (s.setNVZC q).sp = s.sp := rfl
@[simp] theorem State.setNVZC_pc : (s.setNVZC q).pc = s.pc := rfl
@[simp] theorem State.setNVZC_run : (s.setNVZC q).run = s.run := rfl
@[simp] theorem State.setNVZC_mem : (s.setNVZC q).mem = s.mem := rfl
@[simp] theorem State.setNVZC_lines : (s.setNVZC q).lines = s.lines := rfl
@[simp] theorem State.setNVZC_cfg : (s.setNVZC q).cfg = s.cfg := rfl
@[simp] theorem State.setNVZC_inputs : (s.setNVZC q).inputs = s.inputs := rfl
@[simp] theorem State.setNVZC_draws : (s.setNVZC q).draws = s.draws := rfl
@[simp] theorem State.setNVZC_afterDecimal : (s.setNVZC q).afterDecimal = s.afterDecimal := rfl
@[simp] theorem State.setNVZC_lastWrites : (s.setNVZC q).lastWrites = s.lastWrites := rfl
@[simp] theorem State.setNVZC_peek (e : Addr) : (s.setNVZC q).peek e = s.peek e := rfl
@[simp] theorem State.setNVZC_kindAt (e : Addr) : (s.setNVZC q).kindAt e = s.kindAt e := rfl
@[simp] theorem State.setNVZC_firstPending : (s.setNVZC q).firstPending = s.firstPending := rfl
@[simp] theorem State.setNVZC_stackAddr : (s.setNVZC q).stackAddr = s.stackAddr := rfl
@[simp] theorem State.setNVZC_nextZp (p : Byte) : (s.setNVZC q).nextZp p = s.nextZp p := rfl

end

section
variable (s : State) (p q : Byte)

@[simp] theorem State.setCompare_a : (s.setCompare p q).a = s.a := rfl
@[simp] theorem State.setCompare_x : (s.setCompare p q).x = s.x := rfl
@[simp] theorem State.setCompare_y : (s.setCompare p q).y = s.y := rfl
@[simp] theorem State.setCompare_sp : (s.setCompare p q).sp = s.sp := rfl
@[simp] theorem State.setCompare_pc : (s.setCompare p q).pc = s.pc := rfl
@[simp] theorem State.setCompare_run : (s.setCompare p q).run = s.run := rfl
@[simp] theorem State.setCompare_mem : (s.setCompare p q).mem = s.mem := rfl
@[simp] theorem State.setCompare_lines : (s.setCompare p q).lines = s.lines := rfl
@[simp] theorem State.setCompare_cfg : (s.setCompare p q).cfg = s.cfg := rfl
@[simp] theorem State.setCompare_inputs : (s.setCompare p q).inputs = s.inputs := rfl
@[simp] theorem State.setCompare_draws : (s.setCompare p q).draws = s.draws := rfl
@[simp] theorem State.setCompare_afterDecimal : (s.setCompare p q).afterDecimal = s.afterDecimal := rfl
@[simp] theorem State.setCompare_lastWrites : (s.setCompare p q).lastWrites = s.lastWrites := rfl
@[simp] theorem State.setCompare_peek (e : Addr) : (s.setCompare p q).peek e = s.peek e := rfl
@[simp] theorem State.setCompare_kindAt (e : Addr) : (s.setCompare p q).kindAt e = s.kindAt e := rfl
@[simp] theorem State.setCompare_firstPending : (s.setCompare p q).firstPending = s.firstPending := rfl
@[simp] theorem State.setCompare_stackAddr : (s.setCompare p q).stackAddr = s.stackAddr := rfl
@[simp] theorem State.setCompare_nextZp (p : Byte) : (s.setCompare p q).nextZp p = s.nextZp p := rfl

end

section
variable (s : State) (c : Bool) (r : Byte)

@[simp] theorem State.setShift_a : (s.setShift c r).a = s.a := rfl
@[simp] theorem State.setShift_x : (s.setShift c r).x = s.x := rfl
@[simp] theorem State.setShift_y : (s.setShift c r).y = s.y := rfl
@[simp] theorem State.setShift_sp : (s.setShift c r).sp = s.sp := rfl
@[simp] theorem State.setShift_pc : (s.setShift c r).pc = s.pc := rfl
@[simp] theorem State.setShift_run : (s.setShift c r).run = s.run := rfl
@[simp] theorem State.setShift_mem : (s.setShift c r).mem = s.mem := rfl
@[simp] theorem State.setShift_lines : (s.setShift c r).lines = s.lines := rfl
@[simp] theorem State.setShift_cfg : (s.setShift c r).cfg = s.cfg := rfl
@[simp] theorem State.setShift_inputs : (s.setShift c r).inputs = s.inputs := rfl
@[simp] theorem State.setShift_draws : (s.setShift c r).draws = s.draws := rfl
@[simp] theorem State.setShift_afterDecimal : (s.setShift c r).afterDecimal = s.afterDecimal := rfl
@[simp] theorem State.setShift_lastWrites : (s.setShift c r).lastWrites = s.lastWrites := rfl
@[simp] theorem State.setShift_peek (e : Addr) : (s.setShift c r).peek e = s.peek e := rfl
@[simp] theorem State.setShift_kindAt (e : Addr) : (s.setShift c r).kindAt e = s.kindAt e := rfl
@[simp] theorem State.setShift_firstPending : (s.setShift c r).firstPending = s.firstPending := rfl
@[simp] theorem State.setShift_stackAddr : (s.setShift c r).stackAddr = s.stackAddr := rfl
@[simp] theorem State.setShift_nextZp (p : Byte) : (s.setShift c r).nextZp p = s.nextZp p := rfl

end

section
variable (s : State) (c : Bool) (rr : Byte)

@[simp] theorem State.branchIf_a : (s.branchIf c rr).a = s.a := rfl
@[simp] theorem State.branchIf_x : (s.branchIf c rr).x = s.x := rfl
@[simp] theorem State.branchIf_y : (s.branchIf c rr).y = s.y := rfl
@[simp] theorem State.branchIf_sp : (s.branchIf c rr).sp = s.sp := rfl
@[simp] theorem State.branchIf_ps : (s.branchIf c rr).ps = s.ps := rfl
@[simp] theorem State.branchIf_pc : (s.branchIf c rr).pc = if c then branchTarget s.pc rr else s.pc := rfl
@[simp] theorem State.branchIf_run : (s.branchIf c rr).run = s.run := rfl
@[simp] theorem State.branchIf_mem : (s.branchIf c rr).mem = s.mem := rfl
@[simp] theorem State.branchIf_lines : (s.branchIf c rr).lines = s.lines := rfl
@[simp] theorem State.branchIf_cfg : (s.branchIf c rr).cfg = s.cfg := rfl
@[simp] theorem State.branchIf_inputs : (s.branchIf c rr).inputs = s.inputs := rfl
@[simp] theorem State.branchIf_draws : (s.branchIf c rr).draws = s.draws := rfl
@[simp] theorem State.branchIf_afterDecimal : (s.branchIf c rr).afterDecimal = s.afterDecimal := rfl
@[simp] theorem State.branchIf_lastWrites : (s.branchIf c rr).lastWrites = s.lastWrites := rfl
@[simp] theorem State.branchIf_flag (g : Flag) : (s.branchIf c rr).flag g = s.flag g := rfl
@[simp] theorem State.branchIf_peek (e : Addr) : (s.branchIf c rr).peek e = s.peek e := rfl
@[simp] theorem State.branchIf_kindAt (e : Addr) : (s.branchIf c rr).kindAt e = s.kindAt e := rfl
@[simp] theorem State.branchIf_firstPending : (s.branchIf c rr).firstPending = s.firstPending := rfl
@[simp] theorem State.branchIf_stackAddr : (s.branchIf c rr).stackAddr = s.stackAddr := rfl
@[simp] theorem State.branchIf_nextZp (p : Byte) : (s.branchIf c rr).nextZp p = s.nextZp p := rfl

end

/-- Drawing in two goes. -/
@[simp] theorem State.draw_draw (s : State) (j k : Nat) : (s.draw j).draw k = s.draw (j + k) := by
  simp [State.draw, Nat.add_assoc]

/-- Drawing nothing. -/
@[simp] theorem State.draw_zero (s : State) : s.draw 0 = s := rfl

end Sys2Proof.Machine
end

