-- ==== Sys2Proof/Laws/Flags.lean ====
section
/-!
SUPPORT. Bits of a byte and flags of PS: writing one leaves the others, and PS as a byte loses nothing
(R10, R36).
-/

namespace Sys2Proof.Machine

theorem bitOf_oneBit (i j : Nat) (h : i < 8) : bitOf (oneBit i) j = decide (j = i) := by
  rw [bitOf, oneBit, Bool.eq_iff_iff]
  simp only [BitVec.getLsbD_shiftLeft, Bool.and_eq_true, decide_eq_true_eq, Bool.not_eq_true',
    decide_eq_false_iff_not, BitVec.getLsbD_one]
  omega

/-- Bit `j` of a byte after bit `i` is written. -/
theorem bitOf_putBit (v : Byte) (i j : Nat) (b : Bool) (h : i < 8) (hj : j < 8) :
    bitOf (putBit v i b) j = if j = i then b else bitOf v j := by
  have key := bitOf_oneBit i j h
  unfold bitOf at key ⊢
  cases b
  · simp only [putBit, Bool.false_eq_true, if_false, BitVec.getLsbD_and, BitVec.getLsbD_not, key]
    by_cases e : j = i <;> simp [e, hj]
  · simp only [putBit, if_true, BitVec.getLsbD_or, key]
    by_cases e : j = i <;> simp [e]

/-- Two bytes with the same bits are the same. -/
theorem byte_ext {u v : Byte} (h : ∀ f : Flag, bitOf u f.pos = bitOf v f.pos) : u = v := by
  apply BitVec.eq_of_getLsbD_eq
  intro i hi
  have all : ∃ f : Flag, f.pos = i := by
    match i, hi with
    | 0, _ => exact ⟨.c, rfl⟩
    | 1, _ => exact ⟨.z, rfl⟩
    | 2, _ => exact ⟨.i, rfl⟩
    | 3, _ => exact ⟨.d, rfl⟩
    | 4, _ => exact ⟨.b, rfl⟩
    | 5, _ => exact ⟨.t, rfl⟩
    | 6, _ => exact ⟨.v, rfl⟩
    | 7, _ => exact ⟨.n, rfl⟩
  obtain ⟨f, rfl⟩ := all
  exact h f

/-- A flag after one flag of PS is written. -/
@[simp] theorem Status.get_set (p : Status) (f g : Flag) (x : Bool) :
    (p.set f x).get g = if g = f then x else p.get g := by
  cases f <;> cases g <;> rfl

/-- Two values of PS with the same flags are the same. -/
theorem Status.ext_get {p q : Status} (h : ∀ f, p.get f = q.get f) : p = q := by
  obtain ⟨⟩ := p
  obtain ⟨⟩ := q
  have hn := h .n
  have hv := h .v
  have ht := h .t
  have hb := h .b
  have hd := h .d
  have hi := h .i
  have hz := h .z
  have hc := h .c
  simp only [Status.get] at hn hv ht hb hd hi hz hc
  subst_vars
  rfl

/-- The flags of a byte (R36). -/
@[simp] theorem Status.get_ofByte (v : Byte) (f : Flag) :
    (Status.ofByte v).get f = bitOf v f.pos := by
  cases f <;> rfl

/-- Each bit of PS is a flag (R36). -/
@[simp] theorem Status.bitOf_toByte (p : Status) (f : Flag) : bitOf p.toByte f.pos = p.get f := by
  obtain ⟨n, v, t, b, d, i, z, c⟩ := p
  cases f <;> revert n v t b d i z c <;> decide

/-- PS as a byte and back. -/
@[simp] theorem Status.ofByte_toByte (p : Status) : Status.ofByte p.toByte = p :=
  Status.ext_get fun f => by simp

/-- A byte as PS and back: every bit of a byte is a flag. -/
@[simp] theorem Status.toByte_ofByte (v : Byte) : (Status.ofByte v).toByte = v :=
  byte_ext fun f => by simp

/-- Writing a flag writes that flag. -/
@[simp] theorem State.flag_setFlag_same (s : State) (f : Flag) (b : Bool) :
    (s.setFlag f b).flag f = b := by
  simp [State.flag]

/-- A flag after one flag is written. -/
theorem State.flag_setFlag (s : State) (f g : Flag) (b : Bool) :
    (s.setFlag f b).flag g = if g = f then b else s.flag g := by
  simp [State.flag]

/-- Writing a flag leaves the others. -/
theorem State.flag_setFlag_ne (s : State) {f g : Flag} (b : Bool) (h : g ≠ f) :
    (s.setFlag f b).flag g = s.flag g := by
  simp [State.flag_setFlag, h]

/-- The flags after `SetNZ`. -/
theorem State.flag_setNZ (s : State) (v : Byte) (g : Flag) :
    (s.setNZ v).flag g = if g = .z then v == 0 else if g = .n then bitOf v 7 else s.flag g := by
  simp only [State.setNZ, State.flag_setFlag]

/-- The flags after an addition or subtraction. -/
theorem State.flag_setNVZC (s : State) (q : AluResult) (g : Flag) :
    (s.setNVZC q).flag g =
      if g = .c then q.c else if g = .z then q.z else if g = .v then q.v
        else if g = .n then q.n else s.flag g := by
  simp only [State.setNVZC, State.flag_setFlag]

/-- The flags after a comparison. -/
theorem State.flag_setCompare (s : State) (p q : Byte) (g : Flag) :
    (s.setCompare p q).flag g =
      if g = .c then decide (q.toNat ≤ p.toNat) else if g = .z then p - q == 0
        else if g = .n then bitOf (p - q) 7 else s.flag g := by
  simp only [State.setCompare, State.setNZ, State.flag_setFlag]

/-- The flags after a shift or rotate. -/
theorem State.flag_setShift (s : State) (c : Bool) (r : Byte) (g : Flag) :
    (s.setShift c r).flag g =
      if g = .z then r == 0 else if g = .n then bitOf r 7 else if g = .c then c
        else s.flag g := by
  simp only [State.setShift, State.setNZ, State.flag_setFlag]

end Sys2Proof.Machine
end

