-- ==== Sys2Proof/Laws/Memory.lean ====
section
/-!
SUPPORT. The laws of memory: read after write, and that every operation on a memory keeps its canonical
form (R70, R71).
-/

namespace Sys2Proof.Machine

/-- A byte just written is read back. -/
@[simp] theorem Memory.get_set_same (m : Memory) (a : Nat) (b : Byte) :
    Memory.get (Memory.set m a b) a = some b := by
  induction m with
  | nil => simp [Memory.set, Memory.get]
  | cons c rest ih =>
    obtain ⟨k, v⟩ := c
    simp only [Memory.set]
    split
    · simp [Memory.get]
    · split
      · simp [Memory.get]
      · rename_i h1 h2
        have : ¬k = a := fun h => h2 h.symm
        simp [Memory.get, this, ih]

/-- A write leaves every other address. -/
theorem Memory.get_set_ne (m : Memory) {a e : Nat} (b : Byte) (h : e ≠ a) :
    Memory.get (Memory.set m a b) e = Memory.get m e := by
  have h' : ¬a = e := fun he => h he.symm
  induction m with
  | nil => simp [Memory.set, Memory.get, h']
  | cons c rest ih =>
    obtain ⟨k, v⟩ := c
    simp only [Memory.set]
    split
    · simp [Memory.get, h']
    · split
      · rename_i h1 h2
        subst h2
        simp [Memory.get, h']
      · simp [Memory.get, ih]

theorem Memory.wfFrom_mono {m : Memory} {j k : Nat} (h : j ≤ k) (w : Memory.wfFrom k m = true) :
    Memory.wfFrom j m = true := by
  cases m with
  | nil => rfl
  | cons c rest =>
    obtain ⟨a, v⟩ := c
    simp only [Memory.wfFrom, Bool.and_eq_true, decide_eq_true_eq] at w ⊢
    exact ⟨⟨Nat.le_trans h w.1.1, w.1.2⟩, w.2⟩

theorem Memory.wfFrom_set {m : Memory} {k a : Nat} (b : Byte) (hk : k ≤ a) (ha : a < 65536)
    (w : Memory.wfFrom k m = true) : Memory.wfFrom k (Memory.set m a b) = true := by
  induction m generalizing k with
  | nil => simp [Memory.set, Memory.wfFrom, hk, ha]
  | cons c rest ih =>
    obtain ⟨e, v⟩ := c
    simp only [Memory.wfFrom, Bool.and_eq_true, decide_eq_true_eq] at w
    obtain ⟨⟨h1, h2⟩, h3⟩ := w
    simp only [Memory.set]
    split
    · rename_i hlt
      simp only [Memory.wfFrom, Bool.and_eq_true, decide_eq_true_eq]
      exact ⟨⟨hk, ha⟩, ⟨by omega, h2⟩, h3⟩
    · split
      · rename_i h4 h5
        subst h5
        simp only [Memory.wfFrom, Bool.and_eq_true, decide_eq_true_eq]
        exact ⟨⟨h1, h2⟩, h3⟩
      · simp only [Memory.wfFrom, Bool.and_eq_true, decide_eq_true_eq]
        exact ⟨⟨h1, h2⟩, ih (by omega) h3⟩

/-- A write inside the address space keeps the canonical form. -/
theorem Memory.wf_set {m : Memory} (a : Nat) (b : Byte) (ha : a < 65536) (w : Memory.wf m = true) :
    Memory.wf (Memory.set m a b) = true :=
  Memory.wfFrom_set b (Nat.zero_le a) ha w

theorem Memory.wf_foldl (cells : List Host.Cell) (m : Memory) (w : Memory.wf m = true) :
    Memory.wf (cells.foldl
      (fun m c => if c.1 < 65536 then Memory.set m c.1 c.2 else m) m) = true := by
  induction cells generalizing m with
  | nil => exact w
  | cons c rest ih =>
    simp only [List.foldl_cons]
    apply ih
    split
    · exact Memory.wf_set _ _ (by assumption) w
    · exact w

/-- The memory made of any cells is canonical. -/
theorem Memory.wf_ofCells (cells : List Host.Cell) : Memory.wf (Memory.ofCells cells) = true :=
  Memory.wf_foldl cells [] rfl

/-- Placing bytes keeps the canonical form. -/
theorem Memory.wf_setBytes (bs : List Byte) (m : Memory) (a : Addr) (w : Memory.wf m = true) :
    Memory.wf (Memory.setBytes m a bs) = true := by
  induction bs generalizing m a with
  | nil => exact w
  | cons b rest ih => exact ih _ _ (Memory.wf_set _ _ a.isLt w)

theorem Memory.get_none_of_lt {m : Memory} {k a : Nat} (w : Memory.wfFrom k m = true) (h : a < k) :
    Memory.get m a = none := by
  induction m generalizing k with
  | nil => rfl
  | cons c rest ih =>
    obtain ⟨e, v⟩ := c
    simp only [Memory.wfFrom, Bool.and_eq_true, decide_eq_true_eq] at w
    have : ¬e = a := by omega
    simp only [Memory.get, this, if_false]
    exact ih w.2 (by omega)

theorem Memory.ext_from {m n : Memory} {j k : Nat} (wm : Memory.wfFrom j m = true)
    (wn : Memory.wfFrom k n = true) (h : ∀ a, Memory.get m a = Memory.get n a) : m = n := by
  induction m generalizing n j k with
  | nil =>
    cases n with
    | nil => rfl
    | cons c rest =>
      have := h c.1
      simp [Memory.get] at this
  | cons c rest ih =>
    obtain ⟨a, v⟩ := c
    cases n with
    | nil =>
      have := h a
      simp [Memory.get] at this
    | cons d rest' =>
      obtain ⟨b, u⟩ := d
      simp only [Memory.wfFrom, Bool.and_eq_true, decide_eq_true_eq] at wm wn
      have hab : a = b := by
        rcases Nat.lt_trichotomy a b with hlt | heq | hgt
        · have h1 := h a
          have h2 := Memory.get_none_of_lt wn.2 (a := a) (by omega)
          have h3 : ¬b = a := by omega
          simp [Memory.get, h2, h3] at h1
        · exact heq
        · have h1 := h b
          have h2 := Memory.get_none_of_lt wm.2 (a := b) (by omega)
          have h3 : ¬a = b := by omega
          simp [Memory.get, h2, h3] at h1
      subst hab
      have hv : v = u := by
        have h1 := h a
        simpa [Memory.get] using h1
      subst hv
      have hrest : rest = rest' := by
        refine ih wm.2 wn.2 fun e => ?_
        by_cases he : a = e
        · subst he
          rw [Memory.get_none_of_lt wm.2 (by omega), Memory.get_none_of_lt wn.2 (by omega)]
        · have h1 := h e
          simpa [Memory.get, he] using h1
      rw [hrest]

/-- Two canonical memories that hold the same values are the same data. -/
theorem Memory.ext {m n : Memory} (wm : Memory.wf m = true) (wn : Memory.wf n = true)
    (h : ∀ a, Memory.get m a = Memory.get n a) : m = n :=
  Memory.ext_from wm wn h

/-- A byte of plain memory after a byte is stored. -/
theorem State.peek_setMem_set (s : State) (a e : Addr) (v : Byte) :
    (s.setMem (Memory.set s.mem a.toNat v)).peek e = if e = a then v else s.peek e := by
  by_cases h : e = a
  · subst h; simp [State.peek]
  · have : e.toNat ≠ a.toNat := fun hn => h (BitVec.eq_of_toNat_eq hn)
    simp [State.peek, Memory.get_set_ne _ _ this, h]

/-- The reset state's memory is canonical. -/
theorem State.reset_mem_wf : Memory.wf State.reset.mem = true := rfl

end Sys2Proof.Machine
end

