-- ==== Sys2Proof/Laws/Ops.lean ====
section
/-!
SUPPORT. What each shared operation can do, said once: the byte accesses, the stack, pointers, operands.
`OnlyDraws` is the frame of every operation that only reads; `Keeps` is what every operation keeps.
-/

namespace Sys2Proof.Machine

/-- A composed operation answers when its first part answers and then the rest does. -/
theorem Res.bind_ok {α β : Type} {x : Res α} {f : α → Res β} {b : β} :
    (x >>= f) = .ok b ↔ ∃ a, x = .ok a ∧ f a = .ok b := by
  cases x with
  | error e =>
    constructor
    · intro h; cases h
    · rintro ⟨a, h, _⟩; cases h
  | ok a =>
    constructor
    · intro h; exact ⟨a, rfl, h⟩
    · rintro ⟨a', h, h'⟩; cases h; exact h'

/-- A composed operation whose first part answers. -/
theorem Res.bind_of_ok {α β : Type} {x : Res α} {f : α → Res β} {a : α} (h : x = .ok a) :
    (x >>= f) = f a := by
  subst h; rfl

/-- A meaning answers a next state exactly when its operation answers that state. -/
theorem finish_next {r : Res State} {t : State} : finish r = .next t ↔ r = .ok t := by
  cases r with
  | error e => constructor <;> intro h <;> cases h
  | ok a => constructor <;> intro h <;> cases h <;> rfl

/-! ### Operations that only read -/

/-- The only difference between two states: free values drawn. -/
def OnlyDraws (s t : State) : Prop := ∃ k, t = s.draw k

theorem OnlyDraws.refl (s : State) : OnlyDraws s s := ⟨0, rfl⟩

theorem OnlyDraws.trans {s t u : State} (h : OnlyDraws s t) (k : OnlyDraws t u) : OnlyDraws s u := by
  obtain ⟨i, rfl⟩ := h
  obtain ⟨j, rfl⟩ := k
  exact ⟨i + j, State.draw_draw s i j⟩

/-- All that a byte read can do (R71, U10). -/
theorem State.read_ok {s t : State} {a : Addr} {v : Byte} (h : s.read a = .ok (v, t)) :
    ((s.kindAt a = .ram ∨ ∃ b, s.kindAt a = .rom b) ∧ v = s.peek a ∧ t = s) ∨
    (s.kindAt a = .io ∧ t = s.draw 1 ∧
      v = s.lines.foldl (fun v l => l.shownIn a v) (Config.ioByte s.draws a)) := by
  unfold State.read at h
  split at h
  · rename_i hk; cases h; exact .inl ⟨.inl hk, rfl, rfl⟩
  · rename_i b hk; cases h; exact .inl ⟨.inr ⟨b, hk⟩, rfl, rfl⟩
  · rename_i hk; cases h; exact .inr ⟨hk, rfl, rfl⟩
  · cases h

/-- A byte of plain memory or ROM reads as it holds (R71). -/
theorem State.read_plain {s : State} {a : Addr}
    (h : s.kindAt a = .ram ∨ ∃ b, s.kindAt a = .rom b) : s.read a = .ok (s.peek a, s) := by
  unfold State.read
  rcases h with h | ⟨b, h⟩ <;> rw [h]

theorem State.read_onlyDraws {s t : State} {a : Addr} {v : Byte} (h : s.read a = .ok (v, t)) :
    OnlyDraws s t := by
  rcases State.read_ok h with ⟨_, _, rfl⟩ | ⟨_, rfl, _⟩
  · exact OnlyDraws.refl _
  · exact ⟨1, rfl⟩

theorem State.zpPointer_onlyDraws {s t : State} {p : Byte} {v : Addr}
    (h : s.zpPointer p = .ok (v, t)) : OnlyDraws s t := by
  obtain ⟨⟨lo, s1⟩, h1, h⟩ := Res.bind_ok.mp h
  obtain ⟨⟨hi, s2⟩, h2, h⟩ := Res.bind_ok.mp h
  cases h
  exact (State.read_onlyDraws h1).trans (State.read_onlyDraws h2)

theorem State.absPointer_onlyDraws {s t : State} {p v : Addr} (h : s.absPointer p = .ok (v, t)) :
    OnlyDraws s t := by
  obtain ⟨⟨lo, s1⟩, h1, h⟩ := Res.bind_ok.mp h
  obtain ⟨⟨hi, s2⟩, h2, h⟩ := Res.bind_ok.mp h
  cases h
  exact (State.read_onlyDraws h1).trans (State.read_onlyDraws h2)

theorem State.readVector_onlyDraws {s t : State} {p v : Addr} (h : s.readVector p = .ok (v, t)) :
    OnlyDraws s t := by
  obtain ⟨⟨lo, s1⟩, h1, h⟩ := Res.bind_ok.mp h
  obtain ⟨⟨hi, s2⟩, h2, h⟩ := Res.bind_ok.mp h
  cases h
  exact (State.read_onlyDraws h1).trans (State.read_onlyDraws h2)

theorem State.ea_onlyDraws {s t : State} {m : MemMode} {a : Addr} (h : s.ea m = .ok (a, t)) :
    OnlyDraws s t := by
  cases m with
  | indX zz => exact State.zpPointer_onlyDraws h
  | indY zz =>
    obtain ⟨⟨p, s1⟩, h1, h⟩ := Res.bind_ok.mp h
    cases h
    exact State.zpPointer_onlyDraws h1
  | _ => cases h; exact OnlyDraws.refl _

theorem State.operand_onlyDraws {s t : State} {o : Src} {v : Byte}
    (h : s.operand o = .ok (v, t)) : OnlyDraws s t := by
  cases o with
  | imm nn => cases h; exact OnlyDraws.refl _
  | mem m =>
    obtain ⟨⟨a, s1⟩, h1, h⟩ := Res.bind_ok.mp h
    exact (State.ea_onlyDraws h1).trans (State.read_onlyDraws h)

theorem State.destRead_onlyDraws {s t : State} {v : Byte} (h : s.destRead = .ok (v, t)) :
    OnlyDraws s t := by
  unfold State.destRead at h
  split at h
  · exact State.read_onlyDraws h
  · cases h; exact OnlyDraws.refl _

theorem State.fetchByte_onlyDraws {s t : State} {a : Addr} {v : Byte}
    (h : s.fetchByte a = .ok (v, t)) : OnlyDraws s t := by
  unfold State.fetchByte at h
  split at h
  · cases h; exact ⟨1, rfl⟩
  · exact State.read_onlyDraws h

theorem State.fetchBytes_onlyDraws {n : Nat} {s t : State} {a : Addr} {bs : List Byte}
    (h : State.fetchBytes n a s = .ok (bs, t)) : OnlyDraws s t := by
  induction n generalizing s a bs with
  | zero => cases h; exact OnlyDraws.refl _
  | succ n ih =>
    obtain ⟨⟨b, s1⟩, h1, h⟩ := Res.bind_ok.mp h
    obtain ⟨⟨cs, s2⟩, h2, h⟩ := Res.bind_ok.mp h
    cases h
    exact (State.fetchByte_onlyDraws h1).trans (ih h2)

/-- Fetching an instruction only reads. -/
theorem State.fetch_onlyDraws {s t : State} {i : Instr} (h : s.fetch = .ok (i, t)) :
    OnlyDraws s t := by
  obtain ⟨⟨op, s1⟩, h1, h⟩ := Res.bind_ok.mp h
  dsimp only at h
  split at h
  · cases h
  · obtain ⟨⟨bs, s2⟩, h2, h⟩ := Res.bind_ok.mp h
    dsimp only at h
    split at h
    · cases h
      exact (State.fetchByte_onlyDraws h1).trans (State.fetchBytes_onlyDraws h2)
    · cases h

/-! ### Operations that store -/

/-- All that a byte store can do (R71, U10). -/
theorem State.write_ok {s t : State} {a : Addr} {v : Byte} (h : s.write a v = .ok t) :
    (s.kindAt a = .ram ∧
      t = (s.setMem (Memory.set s.mem a.toNat v)).setLastWrites (a :: s.lastWrites)) ∨
    (s.kindAt a = .io ∧
      t = ((s.setLines (s.lines.map fun l => l.stored s.draws a v)).setLastWrites
        (a :: s.lastWrites)).draw 1) ∨
    (s.kindAt a = .rom true ∧ t = s) := by
  unfold State.write at h
  split at h
  · rename_i hk; cases h; exact .inl ⟨hk, rfl⟩
  · rename_i hk; cases h; exact .inr (.inl ⟨hk, rfl⟩)
  · rename_i hk; cases h; exact .inr (.inr ⟨hk, rfl⟩)
  · cases h
  · cases h

/-- A store to plain memory (R71). -/
theorem State.write_ram {s : State} {a : Addr} {v : Byte} (h : s.kindAt a = .ram) :
    s.write a v =
      .ok ((s.setMem (Memory.set s.mem a.toNat v)).setLastWrites (a :: s.lastWrites)) := by
  unfold State.write; rw [h]

/-- A push is a store at the stack address and S decremented (R37). -/
theorem State.push_ok {s t : State} {v : Byte} :
    s.push v = .ok t ↔ ∃ u, s.write s.stackAddr v = .ok u ∧ t = u.setSp (u.sp - 1) := by
  unfold State.push
  rw [Res.bind_ok]
  constructor
  · rintro ⟨u, h, h'⟩; cases h'; exact ⟨u, h, rfl⟩
  · rintro ⟨u, h, rfl⟩; exact ⟨u, h, rfl⟩

/-- A pull is S incremented and a read at the stack address (R38). -/
theorem State.pull_ok {s t : State} {v : Byte} (h : s.pull = .ok (v, t)) :
    OnlyDraws (s.setSp (s.sp + 1)) t :=
  State.read_onlyDraws h

/-- What every operation of an instruction keeps: the parameters, the sources, the inputs, the kind of
every address, the canonical form of memory, the bytes of ROM, and that only stores to plain memory and
I/O are remembered. -/
structure Keeps (s t : State) : Prop where
  cfg : t.cfg = s.cfg
  srcs : t.lines.map Line.src = s.lines.map Line.src
  inputs : t.inputs = s.inputs
  kinds : ∀ a, t.kindAt a = s.kindAt a
  wf : Memory.wf s.mem = true → Memory.wf t.mem = true
  rom : ∀ a b, s.kindAt a = .rom b → t.peek a = s.peek a
  writes : (∀ a ∈ s.lastWrites, s.kindAt a = .ram ∨ s.kindAt a = .io) →
    ∀ a ∈ t.lastWrites, s.kindAt a = .ram ∨ s.kindAt a = .io

theorem Keeps.refl (s : State) : Keeps s s :=
  ⟨rfl, rfl, rfl, fun _ => rfl, id, fun _ _ _ => rfl, id⟩

theorem Keeps.trans {s t u : State} (h : Keeps s t) (k : Keeps t u) : Keeps s u where
  cfg := k.cfg.trans h.cfg
  srcs := k.srcs.trans h.srcs
  inputs := k.inputs.trans h.inputs
  kinds a := (k.kinds a).trans (h.kinds a)
  wf w := k.wf (h.wf w)
  rom a b e := (k.rom a b ((h.kinds a).trans e)).trans (h.rom a b e)
  writes w a ha := by
    have := k.writes (fun e he => by rw [h.kinds e]; exact h.writes w e he) a ha
    rwa [h.kinds a] at this

/-- The kind of an address depends on the sources and the map only. -/
theorem State.kindAt_congr {s t : State} (hc : t.cfg = s.cfg)
    (hl : t.lines.map Line.src = s.lines.map Line.src) (a : Addr) : t.kindAt a = s.kindAt a := by
  have key : ∀ u : State, (u.lines.any fun l => Source.occupies l.src a) =
      (u.lines.map Line.src).any fun c => Source.occupies c a := by
    intro u; simp [List.any_map, Function.comp_def]
  unfold State.kindAt
  rw [key t, key s, hl, hc]

/-- A change of the registers, the run state, the draw counter or the decimal hazard keeps. -/
theorem Keeps.of_eq {s t : State} (hm : t.mem = s.mem) (hl : t.lines = s.lines) (hc : t.cfg = s.cfg)
    (hi : t.inputs = s.inputs) (hw : t.lastWrites = s.lastWrites ∨ t.lastWrites = []) :
    Keeps s t where
  cfg := hc
  srcs := by rw [hl]
  inputs := hi
  kinds a := State.kindAt_congr hc (by rw [hl]) a
  wf w := by rw [hm]; exact w
  rom a b _ := by simp only [State.peek, hm]
  writes w a ha := by
    rcases hw with hw | hw
    · exact w a (hw ▸ ha)
    · rw [hw] at ha; cases ha

theorem State.setA_keeps (s : State) (v : Byte) : Keeps s (s.setA v) :=
  .of_eq rfl rfl rfl rfl (.inl rfl)

theorem State.setX_keeps (s : State) (v : Byte) : Keeps s (s.setX v) :=
  .of_eq rfl rfl rfl rfl (.inl rfl)

theorem State.setY_keeps (s : State) (v : Byte) : Keeps s (s.setY v) :=
  .of_eq rfl rfl rfl rfl (.inl rfl)

theorem State.setSp_keeps (s : State) (v : Byte) : Keeps s (s.setSp v) :=
  .of_eq rfl rfl rfl rfl (.inl rfl)

theorem State.setPs_keeps (s : State) (v : Status) : Keeps s (s.setPs v) :=
  .of_eq rfl rfl rfl rfl (.inl rfl)

theorem State.setPc_keeps (s : State) (v : Addr) : Keeps s (s.setPc v) :=
  .of_eq rfl rfl rfl rfl (.inl rfl)

theorem State.setRun_keeps (s : State) (r : RunState) : Keeps s (s.setRun r) :=
  .of_eq rfl rfl rfl rfl (.inl rfl)

theorem State.draw_keeps (s : State) (n : Nat) : Keeps s (s.draw n) :=
  .of_eq rfl rfl rfl rfl (.inl rfl)

theorem State.setAfterDecimal_keeps (s : State) (b : Bool) : Keeps s (s.setAfterDecimal b) :=
  .of_eq rfl rfl rfl rfl (.inl rfl)

theorem State.setFlag_keeps (s : State) (f : Flag) (b : Bool) : Keeps s (s.setFlag f b) :=
  .of_eq rfl rfl rfl rfl (.inl rfl)

theorem State.setNZ_keeps (s : State) (v : Byte) : Keeps s (s.setNZ v) :=
  .of_eq rfl rfl rfl rfl (.inl rfl)

theorem State.setNVZC_keeps (s : State) (q : AluResult) : Keeps s (s.setNVZC q) :=
  .of_eq rfl rfl rfl rfl (.inl rfl)

theorem State.setCompare_keeps (s : State) (p q : Byte) : Keeps s (s.setCompare p q) :=
  .of_eq rfl rfl rfl rfl (.inl rfl)

theorem State.setShift_keeps (s : State) (c : Bool) (r : Byte) : Keeps s (s.setShift c r) :=
  .of_eq rfl rfl rfl rfl (.inl rfl)

theorem State.branchIf_keeps (s : State) (c : Bool) (rr : Byte) : Keeps s (s.branchIf c rr) :=
  .of_eq rfl rfl rfl rfl (.inl rfl)

theorem State.advance_keeps (s : State) (n : Nat) : Keeps s (s.advance n) :=
  .of_eq rfl rfl rfl rfl (.inr rfl)

theorem OnlyDraws.keeps {s t : State} (h : OnlyDraws s t) : Keeps s t := by
  obtain ⟨k, rfl⟩ := h
  exact s.draw_keeps k

theorem Line.stored_src (l : Line) (n : Nat) (a : Addr) (v : Byte) : (l.stored n a v).src = l.src := rfl

/-- A store that does not reach a source leaves its bits (R71). -/
theorem Line.stored_of_not_reached {l : Line} {a : Addr} (h : Source.reached l.src a = false) (n : Nat) (v : Byte) :
    l.stored n a v = l := by
  simp only [Source.reached, Source.occupies, Bool.or_eq_false_iff, beq_eq_false_iff_ne] at h
  simp only [Line.stored, h.1.1, h.1.2, h.2, if_false, Bool.false_eq_true]

/-- A byte store keeps. -/
theorem State.write_keeps {s t : State} {a : Addr} {v : Byte} (h : s.write a v = .ok t) :
    Keeps s t := by
  rcases State.write_ok h with ⟨hk, rfl⟩ | ⟨hk, rfl⟩ | ⟨_, rfl⟩
  · refine ⟨rfl, rfl, rfl, fun _ => rfl, fun w => Memory.wf_set _ _ a.isLt w, ?_, ?_⟩
    · intro e b he
      have hne : e ≠ a := by rintro rfl; rw [hk] at he; cases he
      have := State.peek_setMem_set s a e v
      rw [if_neg hne] at this
      exact this
    · intro w e he
      rcases List.mem_cons.mp he with rfl | he
      · exact .inl hk
      · exact w e he
  · have hs : (s.lines.map fun l => l.stored s.draws a v).map Line.src = s.lines.map Line.src := by
      simp [List.map_map, Function.comp_def, Line.stored_src]
    refine ⟨rfl, hs, rfl, ?_, id, fun _ _ _ => rfl, ?_⟩
    · intro e
      refine State.kindAt_congr ?_ ?_ e
      · rfl
      · exact hs
    · intro w e he
      rcases List.mem_cons.mp he with rfl | he
      · exact .inr hk
      · exact w e he
  · exact Keeps.refl _

theorem State.push_keeps {s t : State} {v : Byte} (h : s.push v = .ok t) : Keeps s t := by
  obtain ⟨u, hu, rfl⟩ := State.push_ok.mp h
  exact (State.write_keeps hu).trans (u.setSp_keeps _)

theorem State.pull_keeps {s t : State} {v : Byte} (h : s.pull = .ok (v, t)) : Keeps s t :=
  (s.setSp_keeps _).trans (State.pull_ok h).keeps

theorem State.pushWord_keeps {s t : State} {v : Addr} (h : s.pushWord v = .ok t) : Keeps s t := by
  obtain ⟨u, hu, h⟩ := Res.bind_ok.mp h
  exact (State.push_keeps hu).trans (State.push_keeps h)

theorem State.pullWord_keeps {s t : State} {v : Addr} (h : s.pullWord = .ok (v, t)) :
    Keeps s t := by
  obtain ⟨⟨lo, s1⟩, h1, h⟩ := Res.bind_ok.mp h
  obtain ⟨⟨hi, s2⟩, h2, h⟩ := Res.bind_ok.mp h
  cases h
  exact (State.pull_keeps h1).trans (State.pull_keeps h2)

/-- `Accept(src)` leaves what the product fixes of the sources. -/
theorem acceptFirst_srcs (seen now : List Line) :
    (acceptFirst seen now).map Line.src = now.map Line.src := by
  unfold acceptFirst
  split
  · rename_i k _
    apply List.ext_getElem?
    intro j
    simp only [List.getElem?_map, List.getElem?_modify]
    cases now[j]? with
    | none => rfl
    | some l => by_cases h : k = j <;> simp [h, Line.accepted]
  · rfl

/-- `Accept(src)` reaches the source at the place of the first pending one, and no other. -/
theorem acceptFirst_split {pre post now : List Line} {l : Line} (hl : l.pending = true)
    (hp : ∀ k ∈ pre, k.pending = false) :
    acceptFirst (pre ++ l :: post) now = now.modify pre.length Line.accepted := by
  have h : (pre ++ l :: post).findIdx? Line.pending = some pre.length := by
    rw [List.findIdx?_append, List.findIdx?_eq_none_iff.mpr hp]
    simp [List.findIdx?_cons, hl]
  unfold acceptFirst
  rw [h]

/-- A change of the request and enable bits keeps. -/
theorem Keeps.setLines (s : State) {l : List Line} (h : l.map Line.src = s.lines.map Line.src) :
    Keeps s (s.setLines l) :=
  ⟨rfl, h, rfl, fun e => State.kindAt_congr (s := s) (t := s.setLines l) rfl h e, id, fun _ _ _ => rfl, id⟩

theorem State.enterPushes_keeps {s t : State} {b : Bool} (h : s.enterPushes b = .ok t) :
    Keeps s t := by
  obtain ⟨u, hu, h⟩ := Res.bind_ok.mp h
  exact (s.setFlag_keeps .b b).trans
    ((State.pushWord_keeps hu).trans (State.push_keeps h))

theorem State.enterVector_keeps {s t : State} {vec : Addr} (h : s.enterVector vec = .ok t) :
    Keeps s t := by
  obtain ⟨⟨p, u⟩, hu, h⟩ := Res.bind_ok.mp h
  cases h
  exact (s.setFlag_keeps .i true).trans
    ((State.readVector_onlyDraws hu).keeps.trans (u.setPc_keeps p))

/-- The interrupt entry sequence keeps. -/
theorem State.enter_keeps {s t : State} {vec : Addr} {b : Bool} (h : s.enter vec b = .ok t) :
    Keeps s t := by
  obtain ⟨u, hu, h⟩ := Res.bind_ok.mp h
  exact (State.enterPushes_keeps hu).trans (State.enterVector_keeps h)

/-- A store forgets none that is remembered. -/
theorem State.write_remembers {s t : State} {a e : Addr} {v : Byte} (h : s.write a v = .ok t)
    (he : e ∈ s.lastWrites) : e ∈ t.lastWrites := by
  rcases State.write_ok h with ⟨_, rfl⟩ | ⟨_, rfl⟩ | ⟨_, rfl⟩
  · exact List.mem_cons_of_mem _ he
  · exact List.mem_cons_of_mem _ he
  · exact he

theorem State.push_remembers {s t : State} {e : Addr} {v : Byte} (h : s.push v = .ok t)
    (he : e ∈ s.lastWrites) : e ∈ t.lastWrites := by
  obtain ⟨u, hu, rfl⟩ := State.push_ok.mp h
  have := State.write_remembers hu he
  exact this

/-- An interrupt entry forgets no store that is remembered (R352, U11). -/
theorem State.enter_remembers {s t : State} {vec e : Addr} {b : Bool} (h : s.enter vec b = .ok t)
    (he : e ∈ s.lastWrites) : e ∈ t.lastWrites := by
  obtain ⟨u, hu, h⟩ := Res.bind_ok.mp h
  obtain ⟨w, hw, hu⟩ := Res.bind_ok.mp hu
  obtain ⟨x, hx, hw⟩ := Res.bind_ok.mp hw
  obtain ⟨⟨p, y⟩, hy, h⟩ := Res.bind_ok.mp h
  cases h
  obtain ⟨k, rfl⟩ := State.readVector_onlyDraws hy
  have h1 := State.push_remembers (s := s.setFlag .b b) hx he
  have h2 := State.push_remembers hu (State.push_remembers hw h1)
  exact h2

theorem State.storeOperand_keeps {s t : State} {m : MemMode} {v : Byte}
    (h : s.storeOperand m v = .ok t) : Keeps s t := by
  obtain ⟨⟨a, u⟩, hu, h⟩ := Res.bind_ok.mp h
  exact (State.ea_onlyDraws hu).keeps.trans (State.write_keeps h)

theorem State.destWrite_keeps {s t : State} {v : Byte} (h : s.destWrite v = .ok t) :
    Keeps s t := by
  unfold State.destWrite at h
  split at h
  · exact State.write_keeps h
  · cases h; exact s.setA_keeps v

/-- A read-modify-write on memory reads a byte, stores its image and then sets flags (R151). -/
theorem State.modify_mem_ok {s t : State} {m : MemMode} {f : Byte → Byte}
    {g : State → Byte → Byte → State} (h : s.modify (.mem m) f g = .ok t) :
    ∃ a s1 v s2 s3, s.ea m = .ok (a, s1) ∧ s1.read a = .ok (v, s2) ∧
      s2.write a (f v) = .ok s3 ∧ t = g s3 v (f v) := by
  obtain ⟨⟨a, s1⟩, h1, h⟩ := Res.bind_ok.mp h
  obtain ⟨⟨v, s2⟩, h2, h⟩ := Res.bind_ok.mp h
  obtain ⟨s3, h3, h⟩ := Res.bind_ok.mp h
  cases h
  exact ⟨a, s1, v, s2, s3, h1, h2, h3, rfl⟩

end Sys2Proof.Machine
end

