-- ==== Sys2Proof/Laws/Effects.lean ====
section
/-!
SUPPORT. What each shared operation changes, composed along an instruction's course; and that on a product
with every address implemented each of them answers.
-/

namespace Sys2Proof.Machine

/-! ### What changes -/

/-- From `s` to `t` only the registers `regs` and the flags `flags` may differ; where `stores` is false no
memory byte and no request or enable bit does; the decimal hazard is `late`; what every operation keeps is
kept. -/
structure Changes (s t : State) (regs : List Reg) (flags : List Flag) (stores late : Bool) : Prop where
  regs : ∀ r, r ∉ regs → t.reg r = s.reg r
  flags : ∀ f, f ∉ flags → t.flag f = s.flag f
  mem : stores = false → t.mem = s.mem ∧ t.lines = s.lines ∧ t.lastWrites = []
  late : t.afterDecimal = late
  keeps : Keeps s t
  run : t.run = s.run

variable {s t u : State} {R R' : List Reg} {F F' : List Flag} {b b' late late' : Bool}

/-- Every instruction begins by moving PC. -/
theorem Changes.advance (s : State) (n : Nat) : Changes s (s.advance n) [] [] false false :=
  ⟨fun r _ => by cases r <;> rfl, fun _ _ => rfl, fun _ => ⟨rfl, rfl, rfl⟩, rfl, s.advance_keeps n, rfl⟩

/-- More may be named than changes. -/
theorem Changes.weaken (h : Changes s t R F b late) (hR : ∀ r ∈ R, r ∈ R') (hF : ∀ f ∈ F, f ∈ F')
    (hb : b' = false → b = false) : Changes s t R' F' b' late :=
  ⟨fun r h' => h.regs r fun x => h' (hR r x), fun f h' => h.flags f fun x => h' (hF f x),
    fun e => h.mem (hb e), h.late, h.keeps, h.run⟩

theorem Changes.draw (h : Changes s t R F b late) (k : Nat) : Changes s (t.draw k) R F b late :=
  ⟨fun r h' => by rw [← h.regs r h']; cases r <;> rfl, h.flags, h.mem, h.late,
    h.keeps.trans (t.draw_keeps k), h.run⟩

/-- A read after what has changed so far. -/
theorem Changes.onlyDraws (h : Changes s t R F b late) (o : OnlyDraws t u) : Changes s u R F b late := by
  obtain ⟨k, rfl⟩ := o
  exact h.draw k

theorem Changes.setFlag (h : Changes s t R F b late) (f : Flag) (v : Bool) :
    Changes s (t.setFlag f v) R (f :: F) b late :=
  ⟨fun r h' => by rw [← h.regs r h']; cases r <;> rfl,
    fun g hg => by
      rw [State.flag_setFlag, if_neg (by rintro rfl; simp at hg)]
      exact h.flags g fun hm => hg (by simp [hm]),
    h.mem, h.late, h.keeps.trans (t.setFlag_keeps f v), h.run⟩

theorem Changes.setPs (h : Changes s t R F b late) (p : Status) :
    Changes s (t.setPs p) R [.c, .z, .i, .d, .b, .t, .v, .n] b late :=
  ⟨fun r h' => by rw [← h.regs r h']; cases r <;> rfl, fun g hg => by cases g <;> simp at hg, h.mem, h.late,
    h.keeps.trans (t.setPs_keeps p), h.run⟩

theorem Changes.setPc (h : Changes s t R F b late) (p : Addr) : Changes s (t.setPc p) R F b late :=
  ⟨fun r h' => by rw [← h.regs r h']; cases r <;> rfl, h.flags, h.mem, h.late,
    h.keeps.trans (t.setPc_keeps p), h.run⟩

theorem Changes.setAfterDecimal (h : Changes s t R F b late) (v : Bool) :
    Changes s (t.setAfterDecimal v) R F b v :=
  ⟨fun r h' => by rw [← h.regs r h']; cases r <;> rfl, h.flags, h.mem, rfl,
    h.keeps.trans (t.setAfterDecimal_keeps v), h.run⟩

theorem Changes.setA (h : Changes s t R F b late) (v : Byte) : Changes s (t.setA v) (.a :: R) F b late :=
  ⟨fun r h' => by
      simp only [List.mem_cons, not_or] at h'
      rw [← h.regs r h'.2]; cases r <;> first | rfl | exact absurd rfl h'.1,
    h.flags, h.mem, h.late, h.keeps.trans (t.setA_keeps v), h.run⟩

theorem Changes.setX (h : Changes s t R F b late) (v : Byte) : Changes s (t.setX v) (.x :: R) F b late :=
  ⟨fun r h' => by
      simp only [List.mem_cons, not_or] at h'
      rw [← h.regs r h'.2]; cases r <;> first | rfl | exact absurd rfl h'.1,
    h.flags, h.mem, h.late, h.keeps.trans (t.setX_keeps v), h.run⟩

theorem Changes.setY (h : Changes s t R F b late) (v : Byte) : Changes s (t.setY v) (.y :: R) F b late :=
  ⟨fun r h' => by
      simp only [List.mem_cons, not_or] at h'
      rw [← h.regs r h'.2]; cases r <;> first | rfl | exact absurd rfl h'.1,
    h.flags, h.mem, h.late, h.keeps.trans (t.setY_keeps v), h.run⟩

theorem Changes.setSp (h : Changes s t R F b late) (v : Byte) : Changes s (t.setSp v) (.sp :: R) F b late :=
  ⟨fun r h' => by
      simp only [List.mem_cons, not_or] at h'
      rw [← h.regs r h'.2]; cases r <;> first | rfl | exact absurd rfl h'.1,
    h.flags, h.mem, h.late, h.keeps.trans (t.setSp_keeps v), h.run⟩

theorem Changes.setLines (h : Changes s t R F b late) {l : List Line}
    (hl : l.map Line.src = t.lines.map Line.src) : Changes s (t.setLines l) R F true late :=
  ⟨fun r h' => by rw [← h.regs r h']; cases r <;> rfl, h.flags, fun e => Bool.noConfusion e, h.late,
    h.keeps.trans (Keeps.setLines t hl), h.run⟩

theorem Changes.setNZ (h : Changes s t R F b late) (v : Byte) :
    Changes s (t.setNZ v) R (.z :: .n :: F) b late :=
  (h.setFlag _ _).setFlag _ _

theorem Changes.write (h : Changes s t R F b late) {a : Addr} {v : Byte} (hw : t.write a v = .ok u) :
    Changes s u R F true late := by
  have k := h.keeps.trans (State.write_keeps hw)
  rcases State.write_ok hw with ⟨_, rfl⟩ | ⟨_, rfl⟩ | ⟨_, rfl⟩
  · exact ⟨fun r h' => by rw [← h.regs r h']; cases r <;> rfl, h.flags, fun e => Bool.noConfusion e, h.late, k,
      h.run⟩
  · exact ⟨fun r h' => by rw [← h.regs r h']; cases r <;> rfl, h.flags, fun e => Bool.noConfusion e, h.late, k,
      h.run⟩
  · exact ⟨h.regs, h.flags, fun e => Bool.noConfusion e, h.late, k, h.run⟩

theorem Changes.push (h : Changes s t R F b late) {v : Byte} (hw : t.push v = .ok u) :
    Changes s u (.sp :: R) F true late := by
  obtain ⟨w, hw', rfl⟩ := State.push_ok.mp hw
  exact (h.write hw').setSp _

theorem Changes.pushWord (h : Changes s t R F b late) {v : Addr} (hw : t.pushWord v = .ok u) :
    Changes s u (.sp :: R) F true late := by
  obtain ⟨w, h1, h2⟩ := Res.bind_ok.mp hw
  exact ((h.push h1).push h2).weaken (by simp) (fun _ h => h) id

theorem Changes.pull (h : Changes s t R F b late) {v : Byte} (hw : t.pull = .ok (v, u)) :
    Changes s u (.sp :: R) F b late :=
  (h.setSp _).onlyDraws (State.pull_ok hw)

theorem Changes.pullWord (h : Changes s t R F b late) {v : Addr} (hw : t.pullWord = .ok (v, u)) :
    Changes s u (.sp :: R) F b late := by
  obtain ⟨⟨lo, s1⟩, h1, h2⟩ := Res.bind_ok.mp hw
  obtain ⟨⟨hi, s2⟩, h2, h3⟩ := Res.bind_ok.mp h2
  cases h3
  exact ((h.pull h1).pull h2).weaken (by simp) (fun _ h => h) id

/-- The destination A or M(X) of R152: it is memory that changes where T = 1, A where T = 0. -/
theorem Changes.destWrite (h : Changes s t [] F false late) {v : Byte} (hw : t.destWrite v = .ok u)
    (ht : t.flag .t = s.flag .t) : Changes s u [.a] F (s.flag .t) late := by
  unfold State.destWrite at hw
  rw [ht] at hw
  split at hw
  · rename_i h'
    exact (h.write hw).weaken (by simp) (fun _ h => h) (by simp [h'])
  · cases hw
    exact (h.setA v).weaken (fun _ h => h) (fun _ h => h) (fun _ => rfl)

theorem Changes.enterPushes (h : Changes s t R F b late) {v : Bool} (hw : t.enterPushes v = .ok u) :
    Changes s u (.sp :: R) (.b :: F) true late := by
  obtain ⟨w, h1, hw⟩ := Res.bind_ok.mp hw
  exact (((h.setFlag .b v).pushWord h1).push hw).weaken (by simp) (fun _ h => h) id

theorem Changes.enterVector (h : Changes s t R F b late) {vec : Addr} (hw : t.enterVector vec = .ok u) :
    Changes s u R (.i :: F) b late := by
  obtain ⟨⟨p, w⟩, h1, hw⟩ := Res.bind_ok.mp hw
  cases hw
  exact ((h.setFlag .i true).onlyDraws (State.readVector_onlyDraws h1)).setPc _

/-! ### On a product with every address implemented, an operation answers -/

theorem State.implemented_of_keeps (h : s.implemented) (k : Keeps s t) : t.implemented := by
  intro a
  rw [k.kinds]
  exact h a

theorem State.read_answers (h : s.implemented) (a : Addr) : ∃ v t, s.read a = .ok (v, t) ∧ t.implemented := by
  have := h a
  unfold State.read
  split
  · exact ⟨_, _, rfl, h⟩
  · exact ⟨_, _, rfl, h⟩
  · exact ⟨_, _, rfl, h⟩
  · rename_i e; exact absurd e this.1

theorem State.write_answers (h : s.implemented) (a : Addr) (v : Byte) :
    ∃ t, s.write a v = .ok t ∧ t.implemented := by
  have ha := h a
  have : ∃ t, s.write a v = .ok t := by
    unfold State.write
    split
    · exact ⟨_, rfl⟩
    · exact ⟨_, rfl⟩
    · exact ⟨_, rfl⟩
    · rename_i e; exact absurd e ha.2
    · rename_i e; exact absurd e ha.1
  obtain ⟨t, ht⟩ := this
  exact ⟨t, ht, State.implemented_of_keeps h (State.write_keeps ht)⟩

theorem State.push_answers (h : s.implemented) (v : Byte) : ∃ t, s.push v = .ok t ∧ t.implemented := by
  obtain ⟨t, ht, h⟩ := State.write_answers h s.stackAddr v
  exact ⟨_, State.push_ok.mpr ⟨t, ht, rfl⟩, h⟩

theorem State.pull_answers (h : s.implemented) : ∃ v t, s.pull = .ok (v, t) ∧ t.implemented :=
  State.read_answers (s := s.setSp (s.sp + 1)) h _

theorem State.pushWord_answers (h : s.implemented) (v : Addr) :
    ∃ t, s.pushWord v = .ok t ∧ t.implemented := by
  obtain ⟨t, ht, h⟩ := State.push_answers h (highByte v)
  obtain ⟨u, hu, h⟩ := State.push_answers h (lowByte v)
  exact ⟨u, by unfold State.pushWord; rw [Res.bind_of_ok ht]; exact hu, h⟩

theorem State.pullWord_answers (h : s.implemented) : ∃ v t, s.pullWord = .ok (v, t) ∧ t.implemented := by
  obtain ⟨v, t, ht, h⟩ := State.pull_answers h
  obtain ⟨w, u, hu, h⟩ := State.pull_answers h
  exact ⟨_, u, by unfold State.pullWord; rw [Res.bind_of_ok ht]; dsimp only; rw [Res.bind_of_ok hu]; rfl, h⟩

theorem State.zpPointer_answers (h : s.implemented) (p : Byte) :
    ∃ v t, s.zpPointer p = .ok (v, t) ∧ t.implemented := by
  obtain ⟨v, t, ht, h⟩ := State.read_answers h (zext16 p)
  obtain ⟨w, u, hu, h⟩ := State.read_answers h (t.nextZp p)
  exact ⟨_, u, by unfold State.zpPointer; rw [Res.bind_of_ok ht]; dsimp only; rw [Res.bind_of_ok hu]; rfl, h⟩

theorem State.absPointer_answers (h : s.implemented) (p : Addr) :
    ∃ v t, s.absPointer p = .ok (v, t) ∧ t.implemented := by
  obtain ⟨v, t, ht, h⟩ := State.read_answers h p
  obtain ⟨w, u, hu, h⟩ := State.read_answers h (p + 1)
  exact ⟨_, u, by unfold State.absPointer; rw [Res.bind_of_ok ht]; dsimp only; rw [Res.bind_of_ok hu]; rfl, h⟩

theorem State.readVector_answers (h : s.implemented) (p : Addr) :
    ∃ v t, s.readVector p = .ok (v, t) ∧ t.implemented := by
  obtain ⟨v, t, ht, h⟩ := State.read_answers h p
  obtain ⟨w, u, hu, h⟩ := State.read_answers h (p + 1)
  exact ⟨_, u, by unfold State.readVector; rw [Res.bind_of_ok ht]; dsimp only; rw [Res.bind_of_ok hu]; rfl, h⟩

theorem State.ea_answers (h : s.implemented) (m : MemMode) : ∃ a t, s.ea m = .ok (a, t) ∧ t.implemented := by
  cases m with
  | indX zz => exact State.zpPointer_answers h _
  | indY zz =>
    obtain ⟨v, t, ht, h⟩ := State.zpPointer_answers h zz
    exact ⟨_, t, by unfold State.ea; dsimp only; rw [Res.bind_of_ok ht]; rfl, h⟩
  | _ => exact ⟨_, _, rfl, h⟩

theorem State.operand_answers (h : s.implemented) (o : Src) :
    ∃ v t, s.operand o = .ok (v, t) ∧ t.implemented := by
  cases o with
  | imm _ => exact ⟨_, _, rfl, h⟩
  | mem m =>
    obtain ⟨a, t, ht, h⟩ := State.ea_answers h m
    obtain ⟨w, u, hu, h⟩ := State.read_answers h a
    exact ⟨w, u, by unfold State.operand; dsimp only; rw [Res.bind_of_ok ht]; exact hu, h⟩

theorem State.destRead_answers (h : s.implemented) : ∃ v t, s.destRead = .ok (v, t) ∧ t.implemented := by
  unfold State.destRead
  split
  · exact State.read_answers h _
  · exact ⟨_, _, rfl, h⟩

theorem State.destWrite_answers (h : s.implemented) (v : Byte) :
    ∃ t, s.destWrite v = .ok t ∧ t.implemented := by
  unfold State.destWrite
  split
  · exact State.write_answers h _ _
  · exact ⟨_, rfl, h⟩

theorem State.modify_answers (h : s.implemented) (l : Loc) (f : Byte → Byte)
    (g : State → Byte → Byte → State) : ∃ t, s.modify l f g = .ok t := by
  cases l with
  | acc => exact ⟨_, rfl⟩
  | mem m =>
    obtain ⟨a, t, ht, h⟩ := State.ea_answers h m
    obtain ⟨v, u, hu, h⟩ := State.read_answers h a
    obtain ⟨w, hw, h⟩ := State.write_answers h a (f v)
    refine ⟨g w v (f v), ?_⟩
    unfold State.modify
    dsimp only
    rw [Res.bind_of_ok ht]
    dsimp only
    rw [Res.bind_of_ok hu]
    dsimp only
    rw [Res.bind_of_ok hw]
    rfl

theorem State.enterPushes_answers (h : s.implemented) (b : Bool) :
    ∃ t, s.enterPushes b = .ok t ∧ t.implemented := by
  obtain ⟨t, ht, h⟩ := State.pushWord_answers (s := s.setFlag .b b) h s.pc
  obtain ⟨u, hu, h⟩ := State.push_answers h t.ps.toByte
  exact ⟨u, by unfold State.enterPushes; rw [Res.bind_of_ok ht]; exact hu, h⟩

theorem State.enterVector_answers (h : s.implemented) (vec : Addr) : ∃ t, s.enterVector vec = .ok t := by
  obtain ⟨v, t, ht, h⟩ := State.readVector_answers (s := s.setFlag .i true) h vec
  exact ⟨_, by unfold State.enterVector; rw [Res.bind_of_ok ht]; rfl⟩

/-- BRK answers with either outcome of R323, wherever its pushes store. -/
theorem State.softwareInterrupt_answers (h : s.implemented) : ∃ t, s.softwareInterrupt = .ok t := by
  unfold State.softwareInterrupt
  split
  · obtain ⟨t, ht, h⟩ := State.enterPushes_answers (s := s.draw 1) h true
    rw [Res.bind_of_ok ht]
    split
    · exact State.enterVector_answers
        (State.implemented_of_keeps h (Keeps.setLines t (acceptFirst_srcs _ _))) _
    · exact State.enterVector_answers h _
  · obtain ⟨t, ht, h⟩ := State.enterPushes_answers h true
    unfold State.enter
    rw [Res.bind_of_ok ht]
    exact State.enterVector_answers h _

end Sys2Proof.Machine
end

