-- ==== Sys2Proof/Laws/PerInstr.lean ====
section
/-!
SUPPORT. Per instruction: the encoding has as many bytes as the addressing mode says, and its first byte
alone says so (R100, R101, R103).
-/

namespace Sys2Proof.Laws.EncodeLength

/-- The length of an instruction's encoding, told by its mode and by its operation code. -/
def Statement (i : Instr) : Prop :=
  (encode i).length = i.len ∧ (encode i).head?.bind opLength = some i.len

/-- The operation code of a bit-field instruction has the same length for every bit number (R102). -/
theorem bitOp_length (k : BitVec 5) (n : Nat)
    (h : (List.range 8).all (fun i => opLength (bitOp (BitVec.ofNat 3 i) k) == some n) = true)
    (i : BitNo) : opLength (bitOp i k) = some n := by
  have hi : BitVec.ofNat 3 i.toNat = i := by simp
  rw [List.all_eq_true] at h
  have := h i.toNat (List.mem_range.mpr i.isLt)
  rw [hi] at this
  exact beq_iff_eq.mp this

theorem adcIndX (zz : Byte) : Statement (.adcIndX zz) := ⟨rfl, rfl⟩
theorem adcZp (zz : Byte) : Statement (.adcZp zz) := ⟨rfl, rfl⟩
theorem adcImm (nn : Byte) : Statement (.adcImm nn) := ⟨rfl, rfl⟩
theorem adcAbs (hhll : Addr) : Statement (.adcAbs hhll) := ⟨rfl, rfl⟩
theorem adcIndY (zz : Byte) : Statement (.adcIndY zz) := ⟨rfl, rfl⟩
theorem adcZpX (zz : Byte) : Statement (.adcZpX zz) := ⟨rfl, rfl⟩
theorem adcAbsY (hhll : Addr) : Statement (.adcAbsY hhll) := ⟨rfl, rfl⟩
theorem adcAbsX (hhll : Addr) : Statement (.adcAbsX hhll) := ⟨rfl, rfl⟩
theorem andIndX (zz : Byte) : Statement (.andIndX zz) := ⟨rfl, rfl⟩
theorem andZp (zz : Byte) : Statement (.andZp zz) := ⟨rfl, rfl⟩
theorem andImm (nn : Byte) : Statement (.andImm nn) := ⟨rfl, rfl⟩
theorem andAbs (hhll : Addr) : Statement (.andAbs hhll) := ⟨rfl, rfl⟩
theorem andIndY (zz : Byte) : Statement (.andIndY zz) := ⟨rfl, rfl⟩
theorem andZpX (zz : Byte) : Statement (.andZpX zz) := ⟨rfl, rfl⟩
theorem andAbsY (hhll : Addr) : Statement (.andAbsY hhll) := ⟨rfl, rfl⟩
theorem andAbsX (hhll : Addr) : Statement (.andAbsX hhll) := ⟨rfl, rfl⟩
theorem aslZp (zz : Byte) : Statement (.aslZp zz) := ⟨rfl, rfl⟩
theorem aslAcc : Statement .aslAcc := ⟨rfl, rfl⟩
theorem aslAbs (hhll : Addr) : Statement (.aslAbs hhll) := ⟨rfl, rfl⟩
theorem aslZpX (zz : Byte) : Statement (.aslZpX zz) := ⟨rfl, rfl⟩
theorem aslAbsX (hhll : Addr) : Statement (.aslAbsX hhll) := ⟨rfl, rfl⟩
theorem bbcAcc (i : BitNo) (rr : Byte) : Statement (.bbcAcc i rr) := ⟨rfl, bitOp_length _ 2 (by decide) i⟩
theorem bbcZp (i : BitNo) (zz : Byte) (rr : Byte) : Statement (.bbcZp i zz rr) := ⟨rfl, bitOp_length _ 3 (by decide) i⟩
theorem bbsAcc (i : BitNo) (rr : Byte) : Statement (.bbsAcc i rr) := ⟨rfl, bitOp_length _ 2 (by decide) i⟩
theorem bbsZp (i : BitNo) (zz : Byte) (rr : Byte) : Statement (.bbsZp i zz rr) := ⟨rfl, bitOp_length _ 3 (by decide) i⟩
theorem bcc (rr : Byte) : Statement (.bcc rr) := ⟨rfl, rfl⟩
theorem bcs (rr : Byte) : Statement (.bcs rr) := ⟨rfl, rfl⟩
theorem beq (rr : Byte) : Statement (.beq rr) := ⟨rfl, rfl⟩
theorem bitZp (zz : Byte) : Statement (.bitZp zz) := ⟨rfl, rfl⟩
theorem bitAbs (hhll : Addr) : Statement (.bitAbs hhll) := ⟨rfl, rfl⟩
theorem bmi (rr : Byte) : Statement (.bmi rr) := ⟨rfl, rfl⟩
theorem bne (rr : Byte) : Statement (.bne rr) := ⟨rfl, rfl⟩
theorem bpl (rr : Byte) : Statement (.bpl rr) := ⟨rfl, rfl⟩
theorem bra (rr : Byte) : Statement (.bra rr) := ⟨rfl, rfl⟩
theorem brk : Statement .brk := ⟨rfl, rfl⟩
theorem bvc (rr : Byte) : Statement (.bvc rr) := ⟨rfl, rfl⟩
theorem bvs (rr : Byte) : Statement (.bvs rr) := ⟨rfl, rfl⟩
theorem clbAcc (i : BitNo) : Statement (.clbAcc i) := ⟨rfl, bitOp_length _ 1 (by decide) i⟩
theorem clbZp (i : BitNo) (zz : Byte) : Statement (.clbZp i zz) := ⟨rfl, bitOp_length _ 2 (by decide) i⟩
theorem clc : Statement .clc := ⟨rfl, rfl⟩
theorem cld : Statement .cld := ⟨rfl, rfl⟩
theorem cli : Statement .cli := ⟨rfl, rfl⟩
theorem clt : Statement .clt := ⟨rfl, rfl⟩
theorem clv : Statement .clv := ⟨rfl, rfl⟩
theorem cmpIndX (zz : Byte) : Statement (.cmpIndX zz) := ⟨rfl, rfl⟩
theorem cmpZp (zz : Byte) : Statement (.cmpZp zz) := ⟨rfl, rfl⟩
theorem cmpImm (nn : Byte) : Statement (.cmpImm nn) := ⟨rfl, rfl⟩
theorem cmpAbs (hhll : Addr) : Statement (.cmpAbs hhll) := ⟨rfl, rfl⟩
theorem cmpIndY (zz : Byte) : Statement (.cmpIndY zz) := ⟨rfl, rfl⟩
theorem cmpZpX (zz : Byte) : Statement (.cmpZpX zz) := ⟨rfl, rfl⟩
theorem cmpAbsY (hhll : Addr) : Statement (.cmpAbsY hhll) := ⟨rfl, rfl⟩
theorem cmpAbsX (hhll : Addr) : Statement (.cmpAbsX hhll) := ⟨rfl, rfl⟩
theorem com (zz : Byte) : Statement (.com zz) := ⟨rfl, rfl⟩
theorem cpxImm (nn : Byte) : Statement (.cpxImm nn) := ⟨rfl, rfl⟩
theorem cpxZp (zz : Byte) : Statement (.cpxZp zz) := ⟨rfl, rfl⟩
theorem cpxAbs (hhll : Addr) : Statement (.cpxAbs hhll) := ⟨rfl, rfl⟩
theorem cpyImm (nn : Byte) : Statement (.cpyImm nn) := ⟨rfl, rfl⟩
theorem cpyZp (zz : Byte) : Statement (.cpyZp zz) := ⟨rfl, rfl⟩
theorem cpyAbs (hhll : Addr) : Statement (.cpyAbs hhll) := ⟨rfl, rfl⟩
theorem decAcc : Statement .decAcc := ⟨rfl, rfl⟩
theorem decZp (zz : Byte) : Statement (.decZp zz) := ⟨rfl, rfl⟩
theorem decAbs (hhll : Addr) : Statement (.decAbs hhll) := ⟨rfl, rfl⟩
theorem decZpX (zz : Byte) : Statement (.decZpX zz) := ⟨rfl, rfl⟩
theorem decAbsX (hhll : Addr) : Statement (.decAbsX hhll) := ⟨rfl, rfl⟩
theorem dex : Statement .dex := ⟨rfl, rfl⟩
theorem dey : Statement .dey := ⟨rfl, rfl⟩
theorem div (zz : Byte) : Statement (.div zz) := ⟨rfl, rfl⟩
theorem eorIndX (zz : Byte) : Statement (.eorIndX zz) := ⟨rfl, rfl⟩
theorem eorZp (zz : Byte) : Statement (.eorZp zz) := ⟨rfl, rfl⟩
theorem eorImm (nn : Byte) : Statement (.eorImm nn) := ⟨rfl, rfl⟩
theorem eorAbs (hhll : Addr) : Statement (.eorAbs hhll) := ⟨rfl, rfl⟩
theorem eorIndY (zz : Byte) : Statement (.eorIndY zz) := ⟨rfl, rfl⟩
theorem eorZpX (zz : Byte) : Statement (.eorZpX zz) := ⟨rfl, rfl⟩
theorem eorAbsY (hhll : Addr) : Statement (.eorAbsY hhll) := ⟨rfl, rfl⟩
theorem eorAbsX (hhll : Addr) : Statement (.eorAbsX hhll) := ⟨rfl, rfl⟩
theorem incAcc : Statement .incAcc := ⟨rfl, rfl⟩
theorem incZp (zz : Byte) : Statement (.incZp zz) := ⟨rfl, rfl⟩
theorem incAbs (hhll : Addr) : Statement (.incAbs hhll) := ⟨rfl, rfl⟩
theorem incZpX (zz : Byte) : Statement (.incZpX zz) := ⟨rfl, rfl⟩
theorem incAbsX (hhll : Addr) : Statement (.incAbsX hhll) := ⟨rfl, rfl⟩
theorem inx : Statement .inx := ⟨rfl, rfl⟩
theorem iny : Statement .iny := ⟨rfl, rfl⟩
theorem jmpAbs (hhll : Addr) : Statement (.jmpAbs hhll) := ⟨rfl, rfl⟩
theorem jmpInd (hhll : Addr) : Statement (.jmpInd hhll) := ⟨rfl, rfl⟩
theorem jmpZpInd (zz : Byte) : Statement (.jmpZpInd zz) := ⟨rfl, rfl⟩
theorem jsrZpInd (zz : Byte) : Statement (.jsrZpInd zz) := ⟨rfl, rfl⟩
theorem jsrAbs (hhll : Addr) : Statement (.jsrAbs hhll) := ⟨rfl, rfl⟩
theorem jsrSp (ll : Byte) : Statement (.jsrSp ll) := ⟨rfl, rfl⟩
theorem ldaIndX (zz : Byte) : Statement (.ldaIndX zz) := ⟨rfl, rfl⟩
theorem ldaZp (zz : Byte) : Statement (.ldaZp zz) := ⟨rfl, rfl⟩
theorem ldaImm (nn : Byte) : Statement (.ldaImm nn) := ⟨rfl, rfl⟩
theorem ldaAbs (hhll : Addr) : Statement (.ldaAbs hhll) := ⟨rfl, rfl⟩
theorem ldaIndY (zz : Byte) : Statement (.ldaIndY zz) := ⟨rfl, rfl⟩
theorem ldaZpX (zz : Byte) : Statement (.ldaZpX zz) := ⟨rfl, rfl⟩
theorem ldaAbsY (hhll : Addr) : Statement (.ldaAbsY hhll) := ⟨rfl, rfl⟩
theorem ldaAbsX (hhll : Addr) : Statement (.ldaAbsX hhll) := ⟨rfl, rfl⟩
theorem ldm (nn : Byte) (zz : Byte) : Statement (.ldm nn zz) := ⟨rfl, rfl⟩
theorem ldxImm (nn : Byte) : Statement (.ldxImm nn) := ⟨rfl, rfl⟩
theorem ldxZp (zz : Byte) : Statement (.ldxZp zz) := ⟨rfl, rfl⟩
theorem ldxAbs (hhll : Addr) : Statement (.ldxAbs hhll) := ⟨rfl, rfl⟩
theorem ldxZpY (zz : Byte) : Statement (.ldxZpY zz) := ⟨rfl, rfl⟩
theorem ldxAbsY (hhll : Addr) : Statement (.ldxAbsY hhll) := ⟨rfl, rfl⟩
theorem ldyImm (nn : Byte) : Statement (.ldyImm nn) := ⟨rfl, rfl⟩
theorem ldyZp (zz : Byte) : Statement (.ldyZp zz) := ⟨rfl, rfl⟩
theorem ldyAbs (hhll : Addr) : Statement (.ldyAbs hhll) := ⟨rfl, rfl⟩
theorem ldyZpX (zz : Byte) : Statement (.ldyZpX zz) := ⟨rfl, rfl⟩
theorem ldyAbsX (hhll : Addr) : Statement (.ldyAbsX hhll) := ⟨rfl, rfl⟩
theorem lsrZp (zz : Byte) : Statement (.lsrZp zz) := ⟨rfl, rfl⟩
theorem lsrAcc : Statement .lsrAcc := ⟨rfl, rfl⟩
theorem lsrAbs (hhll : Addr) : Statement (.lsrAbs hhll) := ⟨rfl, rfl⟩
theorem lsrZpX (zz : Byte) : Statement (.lsrZpX zz) := ⟨rfl, rfl⟩
theorem lsrAbsX (hhll : Addr) : Statement (.lsrAbsX hhll) := ⟨rfl, rfl⟩
theorem mul (zz : Byte) : Statement (.mul zz) := ⟨rfl, rfl⟩
theorem nop : Statement .nop := ⟨rfl, rfl⟩
theorem oraIndX (zz : Byte) : Statement (.oraIndX zz) := ⟨rfl, rfl⟩
theorem oraZp (zz : Byte) : Statement (.oraZp zz) := ⟨rfl, rfl⟩
theorem oraImm (nn : Byte) : Statement (.oraImm nn) := ⟨rfl, rfl⟩
theorem oraAbs (hhll : Addr) : Statement (.oraAbs hhll) := ⟨rfl, rfl⟩
theorem oraIndY (zz : Byte) : Statement (.oraIndY zz) := ⟨rfl, rfl⟩
theorem oraZpX (zz : Byte) : Statement (.oraZpX zz) := ⟨rfl, rfl⟩
theorem oraAbsY (hhll : Addr) : Statement (.oraAbsY hhll) := ⟨rfl, rfl⟩
theorem oraAbsX (hhll : Addr) : Statement (.oraAbsX hhll) := ⟨rfl, rfl⟩
theorem pha : Statement .pha := ⟨rfl, rfl⟩
theorem php : Statement .php := ⟨rfl, rfl⟩
theorem pla : Statement .pla := ⟨rfl, rfl⟩
theorem plp : Statement .plp := ⟨rfl, rfl⟩
theorem rolZp (zz : Byte) : Statement (.rolZp zz) := ⟨rfl, rfl⟩
theorem rolAcc : Statement .rolAcc := ⟨rfl, rfl⟩
theorem rolAbs (hhll : Addr) : Statement (.rolAbs hhll) := ⟨rfl, rfl⟩
theorem rolZpX (zz : Byte) : Statement (.rolZpX zz) := ⟨rfl, rfl⟩
theorem rolAbsX (hhll : Addr) : Statement (.rolAbsX hhll) := ⟨rfl, rfl⟩
theorem rorZp (zz : Byte) : Statement (.rorZp zz) := ⟨rfl, rfl⟩
theorem rorAcc : Statement .rorAcc := ⟨rfl, rfl⟩
theorem rorAbs (hhll : Addr) : Statement (.rorAbs hhll) := ⟨rfl, rfl⟩
theorem rorZpX (zz : Byte) : Statement (.rorZpX zz) := ⟨rfl, rfl⟩
theorem rorAbsX (hhll : Addr) : Statement (.rorAbsX hhll) := ⟨rfl, rfl⟩
theorem rrf (zz : Byte) : Statement (.rrf zz) := ⟨rfl, rfl⟩
theorem rti : Statement .rti := ⟨rfl, rfl⟩
theorem rts : Statement .rts := ⟨rfl, rfl⟩
theorem sbcIndX (zz : Byte) : Statement (.sbcIndX zz) := ⟨rfl, rfl⟩
theorem sbcZp (zz : Byte) : Statement (.sbcZp zz) := ⟨rfl, rfl⟩
theorem sbcImm (nn : Byte) : Statement (.sbcImm nn) := ⟨rfl, rfl⟩
theorem sbcAbs (hhll : Addr) : Statement (.sbcAbs hhll) := ⟨rfl, rfl⟩
theorem sbcIndY (zz : Byte) : Statement (.sbcIndY zz) := ⟨rfl, rfl⟩
theorem sbcZpX (zz : Byte) : Statement (.sbcZpX zz) := ⟨rfl, rfl⟩
theorem sbcAbsY (hhll : Addr) : Statement (.sbcAbsY hhll) := ⟨rfl, rfl⟩
theorem sbcAbsX (hhll : Addr) : Statement (.sbcAbsX hhll) := ⟨rfl, rfl⟩
theorem sebAcc (i : BitNo) : Statement (.sebAcc i) := ⟨rfl, bitOp_length _ 1 (by decide) i⟩
theorem sebZp (i : BitNo) (zz : Byte) : Statement (.sebZp i zz) := ⟨rfl, bitOp_length _ 2 (by decide) i⟩
theorem sec : Statement .sec := ⟨rfl, rfl⟩
theorem sed : Statement .sed := ⟨rfl, rfl⟩
theorem sei : Statement .sei := ⟨rfl, rfl⟩
theorem set : Statement .set := ⟨rfl, rfl⟩
theorem staIndX (zz : Byte) : Statement (.staIndX zz) := ⟨rfl, rfl⟩
theorem staZp (zz : Byte) : Statement (.staZp zz) := ⟨rfl, rfl⟩
theorem staAbs (hhll : Addr) : Statement (.staAbs hhll) := ⟨rfl, rfl⟩
theorem staIndY (zz : Byte) : Statement (.staIndY zz) := ⟨rfl, rfl⟩
theorem staZpX (zz : Byte) : Statement (.staZpX zz) := ⟨rfl, rfl⟩
theorem staAbsY (hhll : Addr) : Statement (.staAbsY hhll) := ⟨rfl, rfl⟩
theorem staAbsX (hhll : Addr) : Statement (.staAbsX hhll) := ⟨rfl, rfl⟩
theorem stp : Statement .stp := ⟨rfl, rfl⟩
theorem stxZp (zz : Byte) : Statement (.stxZp zz) := ⟨rfl, rfl⟩
theorem stxAbs (hhll : Addr) : Statement (.stxAbs hhll) := ⟨rfl, rfl⟩
theorem stxZpY (zz : Byte) : Statement (.stxZpY zz) := ⟨rfl, rfl⟩
theorem styZp (zz : Byte) : Statement (.styZp zz) := ⟨rfl, rfl⟩
theorem styAbs (hhll : Addr) : Statement (.styAbs hhll) := ⟨rfl, rfl⟩
theorem styZpX (zz : Byte) : Statement (.styZpX zz) := ⟨rfl, rfl⟩
theorem tax : Statement .tax := ⟨rfl, rfl⟩
theorem tay : Statement .tay := ⟨rfl, rfl⟩
theorem tst (zz : Byte) : Statement (.tst zz) := ⟨rfl, rfl⟩
theorem tsx : Statement .tsx := ⟨rfl, rfl⟩
theorem txa : Statement .txa := ⟨rfl, rfl⟩
theorem txs : Statement .txs := ⟨rfl, rfl⟩
theorem tya : Statement .tya := ⟨rfl, rfl⟩
theorem wit : Statement .wit := ⟨rfl, rfl⟩

end Sys2Proof.Laws.EncodeLength
end

