-- ==== Sys2Proof/Laws/Reads.lean ====
section
/-!
SUPPORT. An operation that only reads gives the same value in every state with the same memory, sources,
parameters, index registers and count of draws.
-/

namespace Sys2Proof.Machine

/-- All that a read of an operand depends on is the same in two states. -/
structure SameView (s t : State) : Prop where
  mem : t.mem = s.mem
  lines : t.lines = s.lines
  cfg : t.cfg = s.cfg
  draws : t.draws = s.draws
  x : t.x = s.x
  y : t.y = s.y

theorem SameView.refl (s : State) : SameView s s := ⟨rfl, rfl, rfl, rfl, rfl, rfl⟩

theorem SameView.advance (s : State) (n : Nat) : SameView s (s.advance n) := ⟨rfl, rfl, rfl, rfl, rfl, rfl⟩

theorem SameView.setSp (s : State) (v : Byte) : SameView s (s.setSp v) := ⟨rfl, rfl, rfl, rfl, rfl, rfl⟩

theorem SameView.draw {s t : State} (h : SameView s t) (n : Nat) : SameView (s.draw n) (t.draw n) :=
  ⟨h.mem, h.lines, h.cfg, by simp [h.draws], h.x, h.y⟩

theorem SameView.kindAt {s t : State} (h : SameView s t) (a : Addr) : t.kindAt a = s.kindAt a :=
  State.kindAt_congr h.cfg (by rw [h.lines]) a

theorem SameView.peek {s t : State} (h : SameView s t) (a : Addr) : t.peek a = s.peek a := by
  simp only [State.peek, h.mem]

theorem SameView.nextZp {s t : State} (h : SameView s t) (p : Byte) : t.nextZp p = s.nextZp p := by
  simp only [State.nextZp, h.cfg]

/-- A byte read in another state with the same view. -/
theorem SameView.read {s t u : State} {a : Addr} {v : Byte} (h : SameView s t)
    (hr : s.read a = .ok (v, u)) : ∃ k, u = s.draw k ∧ t.read a = .ok (v, t.draw k) := by
  have hk := h.kindAt a
  rcases State.read_ok hr with ⟨hp, rfl, rfl⟩ | ⟨hio, rfl, rfl⟩
  · refine ⟨0, rfl, ?_⟩
    rw [State.read_plain (by rw [hk]; exact hp), h.peek]; rfl
  · refine ⟨1, rfl, ?_⟩
    unfold State.read
    rw [hk, hio]
    simp only [h.lines, h.draws]

/-- Two byte reads one after the other. -/
theorem SameView.read_read {s t s1 u : State} {a b : Addr} {v w : Byte} (h : SameView s t)
    (h1 : s.read a = .ok (v, s1)) (h2 : s1.read b = .ok (w, u)) :
    ∃ j k, u = s.draw (j + k) ∧ t.read a = .ok (v, t.draw j) ∧
      (t.draw j).read b = .ok (w, t.draw (j + k)) := by
  obtain ⟨j, rfl, hj⟩ := h.read h1
  obtain ⟨k, rfl, hk⟩ := (h.draw j).read h2
  exact ⟨j, k, by simp, hj, by simpa using hk⟩

/-- A zero page pointer in another state with the same view. -/
theorem SameView.zpPointer {s t u : State} {p : Byte} {v : Addr} (h : SameView s t)
    (hr : s.zpPointer p = .ok (v, u)) : ∃ k, u = s.draw k ∧ t.zpPointer p = .ok (v, t.draw k) := by
  obtain ⟨⟨lo, s1⟩, h1, hr⟩ := Res.bind_ok.mp hr
  obtain ⟨⟨hi, s2⟩, h2, hr⟩ := Res.bind_ok.mp hr
  cases hr
  obtain ⟨j, k, rfl, hj, hk⟩ := h.read_read h1 h2
  refine ⟨j + k, rfl, ?_⟩
  have h3 : (t.draw j).nextZp p = s1.nextZp p := by
    obtain ⟨j', rfl⟩ := State.read_onlyDraws h1
    simpa using h.nextZp p
  unfold State.zpPointer
  rw [Res.bind_of_ok hj]
  simp only [State.draw_nextZp] at h3 ⊢
  obtain ⟨j', rfl⟩ := State.read_onlyDraws h1
  simp only [State.draw_nextZp] at hk ⊢
  rw [h.nextZp, Res.bind_of_ok hk]
  rfl

/-- An effective address in another state with the same view. -/
theorem SameView.ea {s t u : State} {m : MemMode} {a : Addr} (h : SameView s t)
    (hr : s.ea m = .ok (a, u)) : ∃ k, u = s.draw k ∧ t.ea m = .ok (a, t.draw k) := by
  cases m with
  | indX zz =>
    simp only [State.ea] at hr ⊢
    rw [h.x]
    exact h.zpPointer hr
  | indY zz =>
    obtain ⟨⟨p, s1⟩, h1, hr⟩ := Res.bind_ok.mp hr
    cases hr
    obtain ⟨k, rfl, hk⟩ := h.zpPointer h1
    refine ⟨k, rfl, ?_⟩
    simp only [State.ea]
    rw [Res.bind_of_ok hk]
    simp [h.y]
    rfl
  | _ =>
    cases hr
    exact ⟨0, rfl, by simp [State.ea, h.x, h.y]⟩

/-- An operand in another state with the same view. -/
theorem SameView.operand {s t u : State} {o : Src} {v : Byte} (h : SameView s t)
    (hr : s.operand o = .ok (v, u)) : ∃ k, u = s.draw k ∧ t.operand o = .ok (v, t.draw k) := by
  cases o with
  | imm nn => cases hr; exact ⟨0, rfl, rfl⟩
  | mem m =>
    obtain ⟨⟨a, s1⟩, h1, hr⟩ := Res.bind_ok.mp hr
    obtain ⟨j, rfl, hj⟩ := h.ea h1
    obtain ⟨k, rfl, hk⟩ := (h.draw j).read hr
    refine ⟨j + k, by simp, ?_⟩
    simp only [State.operand]
    rw [Res.bind_of_ok hj]
    simpa using hk

/-- Where a store cannot stop the model, it answers a state that differs in memory, in the sources' bits, in the
stores remembered and in the count of draws, with the frame of a store. -/
theorem State.write_completes {s : State} {a : Addr} (v : Byte)
    (h : s.kindAt a = .ram ∨ s.kindAt a = .io ∨ s.kindAt a = .rom true) :
    ∃ m l w k, s.write a v = .ok ((((s.setMem m).setLines l).setLastWrites w).draw k) ∧
      (s.kindAt a = .ram → m = Memory.set s.mem a.toNat v) ∧ (s.kindAt a ≠ .ram → m = s.mem) ∧
      (s.kindAt a = .io → l = s.lines.map fun k => k.stored s.draws a v) ∧
      (s.kindAt a ≠ .io → l = s.lines) ∧
      (s.kindAt a = .ram ∨ s.kindAt a = .io → w = a :: s.lastWrites) := by
  unfold State.write
  rcases h with h | h | h <;> rw [h]
  · exact ⟨_, s.lines, _, 0, rfl, fun _ => rfl, by simp, by simp, fun _ => rfl, fun _ => rfl⟩
  · exact ⟨s.mem, _, _, 1, rfl, by simp, fun _ => rfl, fun _ => rfl, by simp, fun _ => rfl⟩
  · exact ⟨s.mem, s.lines, s.lastWrites, 0, rfl, by simp, fun _ => rfl, by simp, fun _ => rfl, by simp⟩

end Sys2Proof.Machine
end

