-- ==== Sys2Proof/Laws/Words.lean ====
section
/-!
SUPPORT. Bytes and 16-bit values: the two halves of a value, and the fields of a bit-field operation code
(R11, R72, R102).
-/

namespace Sys2Proof

/-- The value of two bytes as a number (R11). -/
theorem joinBytes_toNat (hi lo : Byte) : (joinBytes hi lo).toNat = 256 * hi.toNat + lo.toNat := by
  have h := lo.isLt
  have : (joinBytes hi lo).toNat = hi.toNat <<< 8 ||| lo.toNat := BitVec.toNat_append hi lo
  rw [this, Nat.shiftLeft_eq, Nat.mul_comm, show 256 = 2 ^ 8 from rfl,
    Nat.two_pow_add_eq_or_of_lt (by simpa using h)]

/-- The low-order byte as a number. -/
theorem lowByte_toNat (v : Addr) : (lowByte v).toNat = v.toNat % 256 := by
  simp [lowByte, BitVec.extractLsb'_toNat]

/-- The high-order byte as a number. -/
theorem highByte_toNat (v : Addr) : (highByte v).toNat = v.toNat / 256 := by
  have h := v.isLt
  simp only [highByte, BitVec.extractLsb'_toNat, Nat.shiftRight_eq_div_pow]
  omega

/-- A 16-bit value is made of its two bytes. -/
@[simp] theorem joinBytes_high_low (v : Addr) : joinBytes (highByte v) (lowByte v) = v := by
  apply BitVec.eq_of_toNat_eq
  rw [joinBytes_toNat, highByte_toNat, lowByte_toNat]
  omega

@[simp] theorem lowByte_joinBytes (hi lo : Byte) : lowByte (joinBytes hi lo) = lo := by
  have h := lo.isLt
  apply BitVec.eq_of_toNat_eq
  rw [lowByte_toNat, joinBytes_toNat]
  omega

@[simp] theorem highByte_joinBytes (hi lo : Byte) : highByte (joinBytes hi lo) = hi := by
  have h := lo.isLt
  apply BitVec.eq_of_toNat_eq
  rw [highByte_toNat, joinBytes_toNat]
  omega

/-- Two addresses with the same high-order byte differ where their low-order bytes do. -/
theorem joinBytes_inj {hi lo hi' lo' : Byte} : joinBytes hi lo = joinBytes hi' lo' ↔ hi = hi' ∧ lo = lo' := by
  constructor
  · intro h
    exact ⟨by rw [← highByte_joinBytes hi lo, h, highByte_joinBytes],
      by rw [← lowByte_joinBytes hi lo, h, lowByte_joinBytes]⟩
  · rintro ⟨rfl, rfl⟩; rfl

/-- The bit number of a bit-field operation code (R102). -/
@[simp] theorem bitField_bitOp (i : BitNo) (k : BitVec 5) : bitField (bitOp i k) = i := by
  revert i k; decide

/-- The low-order five bits of a bit-field operation code (R102). -/
@[simp] theorem bitOp_mask (i : BitNo) (k : BitVec 5) : bitOp i k &&& 0x1F = k.setWidth 8 := by
  revert i k; decide

/-- A byte is a bit-field operation code of its two fields. -/
theorem bitOp_fields (op : Byte) : bitOp (bitField op) (op.extractLsb' 0 5) = op := by
  revert op; decide

end Sys2Proof
end

