-- ==== Sys2Proof/Machine/Statement.lean ====
section
/-!
DEFINITION. The statement form of an instruction, the text the manual writes it as (R115). Nothing of the
machine depends on it.
-/

namespace Sys2Proof.Machine

/-- A mnemonic as the manual spells it (R115). -/
def mnemonicText : Mnemonic → String
  | .adc => "ADC" | .and => "AND" | .asl => "ASL" | .bbc => "BBC" | .bbs => "BBS" | .bcc => "BCC"
  | .bcs => "BCS" | .beq => "BEQ" | .bit => "BIT" | .bmi => "BMI" | .bne => "BNE" | .bpl => "BPL"
  | .bra => "BRA" | .brk => "BRK" | .bvc => "BVC" | .bvs => "BVS" | .clb => "CLB" | .clc => "CLC"
  | .cld => "CLD" | .cli => "CLI" | .clt => "CLT" | .clv => "CLV" | .cmp => "CMP" | .com => "COM"
  | .cpx => "CPX" | .cpy => "CPY" | .dec => "DEC" | .dex => "DEX" | .dey => "DEY" | .div => "DIV"
  | .eor => "EOR" | .inc => "INC" | .inx => "INX" | .iny => "INY" | .jmp => "JMP" | .jsr => "JSR"
  | .lda => "LDA" | .ldm => "LDM" | .ldx => "LDX" | .ldy => "LDY" | .lsr => "LSR" | .mul => "MUL"
  | .nop => "NOP" | .ora => "ORA" | .pha => "PHA" | .php => "PHP" | .pla => "PLA" | .plp => "PLP"
  | .rol => "ROL" | .ror => "ROR" | .rrf => "RRF" | .rti => "RTI" | .rts => "RTS" | .sbc => "SBC"
  | .seb => "SEB" | .sec => "SEC" | .sed => "SED" | .sei => "SEI" | .set => "SET" | .sta => "STA"
  | .stp => "STP" | .stx => "STX" | .sty => "STY" | .tax => "TAX" | .tay => "TAY" | .tst => "TST"
  | .tsx => "TSX" | .txa => "TXA" | .txs => "TXS" | .tya => "TYA" | .wit => "WIT"

/-- A digit of a hexadecimal or decimal number. -/
def digitText (n : Nat) : String := String.singleton ("0123456789ABCDEF".toList.getD n '0')

/-- A byte as two hexadecimal digits (R9). -/
def byteText (v : Byte) : String := digitText (v.toNat / 16) ++ digitText (v.toNat % 16)

/-- An address as four hexadecimal digits with the mark of a hexadecimal number (R115). -/
def addrText (a : Addr) : String := "$" ++ byteText (highByte a) ++ byteText (lowByte a)

/-- A zero page address as two hexadecimal digits with the mark of a hexadecimal number (R115). -/
def zpText (zz : Byte) : String := "$" ++ byteText zz

/-- A memory operand (R115). -/
def memText : MemMode → String
  | .zp zz => zpText zz
  | .zpX zz => zpText zz ++ ",X"
  | .zpY zz => zpText zz ++ ",Y"
  | .abs hhll => addrText hhll
  | .absX hhll => addrText hhll ++ ",X"
  | .absY hhll => addrText hhll ++ ",Y"
  | .indX zz => "(" ++ zpText zz ++ ",X)"
  | .indY zz => "(" ++ zpText zz ++ "),Y"

/-- The operand of a statement, with the blank before it; a relative operand is written as the target
address of an instruction at `a` (R115, R275). -/
def operandText (a : Addr) : Form → String
  | .implied => ""
  | .acc => " A"
  | .accBit i => " " ++ digitText i.toNat ++ ",A"
  | .imm nn => " #" ++ zpText nn
  | .mem m => " " ++ memText m
  | .indAbs hhll => " (" ++ addrText hhll ++ ")"
  | .zpInd zz => " (" ++ zpText zz ++ ")"
  | .special ll => " \\" ++ addrText (joinBytes 0xFF ll)
  | .rel rr => " " ++ addrText (branchTarget (a + 2) rr)
  | .zpBit i zz => " " ++ digitText i.toNat ++ "," ++ zpText zz
  | .accBitRel i rr => " " ++ digitText i.toNat ++ ",A," ++ addrText (branchTarget (a + 2) rr)
  | .zpBitRel i zz rr =>
    " " ++ digitText i.toNat ++ "," ++ zpText zz ++ "," ++ addrText (branchTarget (a + 3) rr)
  | .immZp nn zz => " #" ++ zpText nn ++ "," ++ zpText zz

/-- The statement form of an instruction whose operation code is at the address `a` (R115). -/
def statement (a : Addr) (i : Instr) : String := mnemonicText i.mnemonic ++ operandText a i.form

end Sys2Proof.Machine
end

