-- ==== Sys2Proof/Machine/Timing.lean ====
section
/-!
DEFINITION. The cycle numbers (R361, R362). They are timing only: no rule and no other definition depends
on them, and State holds no clock (log 34).
-/

namespace Sys2Proof.Machine

/-- Cycles of an instruction that reads `Operand()` (R361). -/
def readCycles : Form → Nat
  | .imm _ => 2
  | .mem (.zp _) => 3
  | .mem (.zpX _) | .mem (.zpY _) | .mem (.abs _) => 4
  | .mem (.absX _) | .mem (.absY _) => 5
  | .mem (.indX _) | .mem (.indY _) => 6
  | _ => 0

/-- Cycles of a read-modify-write instruction on A or memory (R361). -/
def modifyCycles : Form → Nat
  | .acc => 2
  | .mem (.zp _) => 5
  | .mem (.zpX _) | .mem (.abs _) => 6
  | .mem (.absX _) => 7
  | _ => 0

/-- Cycles of the bit instructions, jumps and calls by their mode (R361). -/
def otherCycles : Mnemonic → Form → Nat
  | _, .accBit _ => 2
  | _, .zpBit _ _ => 5
  | _, .accBitRel _ _ => 4
  | _, .zpBitRel _ _ _ => 5
  | .jmp, .mem _ => 3
  | .jmp, .indAbs _ => 5
  | .jmp, .zpInd _ => 4
  | .jsr, .mem _ => 6
  | .jsr, .special _ => 5
  | .jsr, .zpInd _ => 7
  | _, _ => 0

/-- The cycle number of an instruction with T = 0 and no branch taken (R361). -/
def baseCycles (i : Instr) : Nat :=
  match i.mnemonic with
  | .adc | .and | .cmp | .eor | .lda | .ora | .sbc | .ldx | .ldy | .cpx | .cpy | .bit | .tst =>
    readCycles i.form
  | .sta | .stx | .sty => readCycles i.form + 1
  | .asl | .lsr | .rol | .ror | .inc | .dec => modifyCycles i.form
  | .com => 5
  | .rrf => 8
  | .mul => 15
  | .div => 16
  | .clc | .cld | .cli | .clt | .clv | .sec | .sed | .sei | .set => 2
  | .dex | .dey | .inx | .iny | .nop | .tax | .tay | .tsx | .txa | .txs | .tya | .stp | .wit => 2
  | .pha | .php => 3
  | .pla | .plp | .ldm | .bra => 4
  | .rti | .rts => 6
  | .brk => 7
  | .bcc | .bcs | .beq | .bmi | .bne | .bpl | .bvc | .bvs => 2
  | .clb | .seb | .bbc | .bbs | .jmp | .jsr => otherCycles i.mnemonic i.form

/-- What T = 1 adds to the cycle number (R362). -/
def tCycles (i : Instr) : Nat :=
  match i.mnemonic with
  | .adc | .and | .eor | .ora | .sbc => 3
  | .lda => 2
  | .cmp => 1
  | _ => 0

/-- What a taken branch adds to the cycle number (R362). -/
def takenCycles (i : Instr) : Nat :=
  match i.mnemonic with
  | .bbc | .bbs | .bcc | .bcs | .beq | .bmi | .bne | .bpl | .bvc | .bvs => 2
  | _ => 0

/-- The cycle number of an instruction, with the value of T and whether its branch is taken (R361, R362). -/
def cycles (i : Instr) (t taken : Bool) : Nat :=
  baseCycles i + (if t then tCycles i else 0) + (if taken then takenCycles i else 0)

end Sys2Proof.Machine
end

