-- ==== Sys2Proof/Tests/Slice0.lean ====
section
/-!
SUPPORT. Tests. The vectors named T, A, L, B, J, X are those of spec/95_test_vectors.md, one step each; the
words are those the spec writes out (S1 to S19 there, and R102).
-/

namespace Sys2Proof.Tests
open Sys2Proof.Machine

/-- The start state of the vectors: PC 1000, every flag 0, nothing in memory. -/
def start : State := { State.reset with pc := 0x1000, ps := Status.ofByte 0x00 }

/-- One step on these bytes at PC answers a next state that passes the check. -/
def ran (bytes : List Byte) (s : State) (p : State → Bool) : Bool :=
  match step (s.placeInstruction bytes) with
  | .next t => p t
  | .fault _ | .refused _ => false

/-- One step on these bytes at PC stops with this fault. -/
def stops (bytes : List Byte) (s : State) (f : Fault) : Bool :=
  match step (s.placeInstruction bytes) with
  | .fault g => decide (g = f)
  | .next _ | .refused _ => false

/-- One step of a state answers a next state that passes the check. -/
def stepped (s : State) (p : State → Bool) : Bool :=
  match step s with
  | .next t => p t
  | .fault _ | .refused _ => false

/-! ### Well-formedness: each check refuses an ill-formed term -/

theorem test_wellFormed_jmp_page_end : (Instr.jmpInd 0x14FF).wellFormed = false := by decide
theorem test_wellFormed_jmp_zp_page_end : (Instr.jmpZpInd 0xFF).wellFormed = true := by decide
theorem test_decimalCarry_refuses : decimalCarryOk true (.adcImm 0x46) .cld = false := by decide
theorem test_decimalCarry_binary : decimalCarryOk false (.adcImm 0x46) .cld = true := by decide
theorem test_nopAfterPlp_refuses : nopAfterPlpOk .plp .cli = false := by decide

/-- A source whose request bit is bit 3 and whose enable bit is bit 3 of two zero page bytes; its vector
entry is at FFF8 (the example value of the vectors). -/
def timer : Source where
  vector := 0xFFF8
  external := false
  requestAddr := 0x003C
  requestBit := 3
  enableAddr := 0x003E
  enableBit := 3
  acceptClears := true
  writeSetsRequest := false
  reachedFrom := []

theorem test_requestBit_refuses :
    requestBitOk [timer] (.ldm 0x00 0x3C) (.bbcZp 3 0x3C 0x02) = false := by decide
theorem test_sequence_refuses :
    sequenceOk true [] [.sed, .adcImm 0x46, .nop, .cld, .plp, .nop, .jmpInd 0x14FF] = false := by decide
theorem test_sequence_accepts :
    sequenceOk true [timer] [.sed, .adcImm 0x46, .nop, .cld, .plp, .nop, .jmpInd 0x1400] = true := by
  decide

/-! ### Decoding: words written out from the spec's encodings -/

theorem test_decode_S1 : decode [0x69, 0xA5] = .ok (.adcImm 0xA5, []) := by decide
theorem test_decode_S2 : decode [0x2A] = .ok (.rolAcc, []) := by decide
theorem test_decode_S3 : decode [0x65, 0x40] = .ok (.adcZp 0x40, []) := by decide
theorem test_decode_S4 : decode [0x75, 0x5E] = .ok (.adcZpX 0x5E, []) := by decide
theorem test_decode_S5 : decode [0xB6, 0x62] = .ok (.ldxZpY 0x62, []) := by decide
theorem test_decode_S6 : decode [0x6D, 0x12, 0xAD] = .ok (.adcAbs 0xAD12, []) := by decide
theorem test_decode_S7 : decode [0x7D, 0x12, 0xAD] = .ok (.adcAbsX 0xAD12, []) := by decide
theorem test_decode_S8 : decode [0x79, 0x12, 0xAD] = .ok (.adcAbsY 0xAD12, []) := by decide
theorem test_decode_S9 : decode [0x18] = .ok (.clc, []) := by decide
theorem test_decode_S10 : decode [0x90, 0xF2] = .ok (.bcc 0xF2, []) := by decide
theorem test_decode_S11 : decode [0x61, 0x1E] = .ok (.adcIndX 0x1E, []) := by decide
theorem test_decode_S12 : decode [0x71, 0x1E] = .ok (.adcIndY 0x1E, []) := by decide
theorem test_decode_S13 : decode [0x6C, 0x00, 0x14] = .ok (.jmpInd 0x1400, []) := by decide
theorem test_decode_S14 : decode [0xB2, 0x45] = .ok (.jmpZpInd 0x45, []) := by decide
theorem test_decode_S15 : decode [0x22, 0xC0] = .ok (.jsrSp 0xC0, []) := by decide
theorem test_decode_S16 : decode [0xBF, 0x44] = .ok (.clbZp 5 0x44, []) := by decide
theorem test_decode_S17 : decode [0xBB] = .ok (.clbAcc 5, []) := by decide
theorem test_decode_S18 : decode [0xB3, 0xF2] = .ok (.bbcAcc 5 0xF2, []) := by decide
theorem test_decode_S19 : decode [0xB7, 0x04, 0xF1] = .ok (.bbcZp 5 0x04 0xF1, []) := by decide

/-- R102: SEB 7,$10 written bit by bit, `iii` then `01111`. -/
theorem test_decode_seb : decode [0b11101111, 0x10] = .ok (.sebZp 7 0x10, []) := by decide
/-- R104: LDM has the immediate byte first. -/
theorem test_decode_ldm : decode [0b00111100, 0x5A, 0x10] = .ok (.ldm 0x5A 0x10, []) := by decide
/-- R111: BBS 7,A. -/
theorem test_decode_bbs : decode [0b11100011, 0x05] = .ok (.bbsAcc 7 0x05, []) := by decide
theorem test_decode_leaves_rest : decode [0x2A, 0x18, 0x00] = .ok (.rolAcc, [0x18, 0x00]) := by decide
theorem test_decode_truncated : decode [0x6D, 0x12] = .error .truncated := by decide
theorem test_decodeTableWord : decodeTableWord 24 0xAD126D = some (.adcAbs 0xAD12) := by decide
theorem test_decodeTableWord_short : decodeTableWord 8 0xFF69 = some (.adcImm 0x00) := by decide

/-- The mnemonics of the sixteen operation codes of one row of R111, none where no instruction is
assigned. -/
def mapRow (hi : Nat) : List (Option Mnemonic) :=
  (List.range 16).map fun lo => (decodeTableWord 8 (16 * hi + lo)).map Instr.mnemonic

/-- The lengths of the sixteen operation codes of one row of R111, 0 where no instruction is assigned. -/
def lengthRow (hi : Nat) : List Nat :=
  (List.range 16).map fun lo => (opLength (BitVec.ofNat 8 (16 * hi + lo))).getD 0

/-- R103: the compact rule for the length of a defined operation code. -/
def lengthByRule (op : Nat) : Nat :=
  let lo := op % 16
  if lo = 8 ∨ lo = 10 ∨ lo = 11 ∨ op ∈ [0x00, 0x40, 0x60, 0x12, 0x32, 0x42, 0xC2] then 1
  else if lo = 12 ∨ lo = 13 ∨ lo = 14 ∨ (lo = 9 ∧ op / 16 % 2 = 1) ∨ lo = 7 ∨ op = 0x20 then 3
  else 2

/-! The rows of the operation code map, copied from R111. -/

theorem test_map_0 : mapRow 0 =
    [some .brk, some .ora, some .jsr, some .bbs, none, some .ora, some .asl, some .bbs,
     some .php, some .ora, some .asl, some .seb, none, some .ora, some .asl, some .seb] := by decide
theorem test_map_1 : mapRow 1 =
    [some .bpl, some .ora, some .clt, some .bbc, none, some .ora, some .asl, some .bbc,
     some .clc, some .ora, some .dec, some .clb, none, some .ora, some .asl, some .clb] := by decide
theorem test_map_2 : mapRow 2 =
    [some .jsr, some .and, some .jsr, some .bbs, some .bit, some .and, some .rol, some .bbs,
     some .plp, some .and, some .rol, some .seb, some .bit, some .and, some .rol, some .seb] := by decide
theorem test_map_3 : mapRow 3 =
    [some .bmi, some .and, some .set, some .bbc, none, some .and, some .rol, some .bbc,
     some .sec, some .and, some .inc, some .clb, some .ldm, some .and, some .rol, some .clb] := by decide
theorem test_map_4 : mapRow 4 =
    [some .rti, some .eor, some .stp, some .bbs, some .com, some .eor, some .lsr, some .bbs,
     some .pha, some .eor, some .lsr, some .seb, some .jmp, some .eor, some .lsr, some .seb] := by decide
theorem test_map_5 : mapRow 5 =
    [some .bvc, some .eor, none, some .bbc, none, some .eor, some .lsr, some .bbc,
     some .cli, some .eor, none, some .clb, none, some .eor, some .lsr, some .clb] := by decide
theorem test_map_6 : mapRow 6 =
    [some .rts, some .adc, some .mul, some .bbs, some .tst, some .adc, some .ror, some .bbs,
     some .pla, some .adc, some .ror, some .seb, some .jmp, some .adc, some .ror, some .seb] := by decide
theorem test_map_7 : mapRow 7 =
    [some .bvs, some .adc, none, some .bbc, none, some .adc, some .ror, some .bbc,
     some .sei, some .adc, none, some .clb, none, some .adc, some .ror, some .clb] := by decide
theorem test_map_8 : mapRow 8 =
    [some .bra, some .sta, some .rrf, some .bbs, some .sty, some .sta, some .stx, some .bbs,
     some .dey, none, some .txa, some .seb, some .sty, some .sta, some .stx, some .seb] := by decide
theorem test_map_9 : mapRow 9 =
    [some .bcc, some .sta, none, some .bbc, some .sty, some .sta, some .stx, some .bbc,
     some .tya, some .sta, some .txs, some .clb, none, some .sta, none, some .clb] := by decide
theorem test_map_A : mapRow 10 =
    [some .ldy, some .lda, some .ldx, some .bbs, some .ldy, some .lda, some .ldx, some .bbs,
     some .tay, some .lda, some .tax, some .seb, some .ldy, some .lda, some .ldx, some .seb] := by decide
theorem test_map_B : mapRow 11 =
    [some .bcs, some .lda, some .jmp, some .bbc, some .ldy, some .lda, some .ldx, some .bbc,
     some .clv, some .lda, some .tsx, some .clb, some .ldy, some .lda, some .ldx, some .clb] := by decide
theorem test_map_C : mapRow 12 =
    [some .cpy, some .cmp, some .wit, some .bbs, some .cpy, some .cmp, some .dec, some .bbs,
     some .iny, some .cmp, some .dex, some .seb, some .cpy, some .cmp, some .dec, some .seb] := by decide
theorem test_map_D : mapRow 13 =
    [some .bne, some .cmp, none, some .bbc, none, some .cmp, some .dec, some .bbc,
     some .cld, some .cmp, none, some .clb, none, some .cmp, some .dec, some .clb] := by decide
theorem test_map_E : mapRow 14 =
    [some .cpx, some .sbc, some .div, some .bbs, some .cpx, some .sbc, some .inc, some .bbs,
     some .inx, some .sbc, some .nop, some .seb, some .cpx, some .sbc, some .inc, some .seb] := by decide
theorem test_map_F : mapRow 15 =
    [some .beq, some .sbc, none, some .bbc, none, some .sbc, some .inc, some .bbc,
     some .sed, some .sbc, none, some .clb, none, some .sbc, some .inc, some .clb] := by decide

theorem test_lengths_by_rule :
    ∀ hi < 16, ∀ lo < 16, (lengthRow hi)[lo]? = some 0 ∨
      (lengthRow hi)[lo]? = some (lengthByRule (16 * hi + lo)) := by decide

/-! ### The vectors of spec/95_test_vectors.md -/

theorem test_T1 :
    ran [0xA9, 0x00] { start with a := 0x55, ps := Status.ofByte 0x80 }
      (fun t => t.a == 0 && t.ps.toByte == 0x02 && t.pc == 0x1002) = true := by decide
theorem test_T2 :
    ran [0xB5, 0x80] { start with x := 0xFF, mem := [(0x7F,0x9C)] }
      (fun t => t.a == 0x9C && t.ps.toByte == 0x80) = true := by decide
theorem test_T3 :
    ran [0xBD, 0xFF, 0x12] { start with x := 0x01, mem := [(0x1300,0x01)] }
      (fun t => t.a == 0x01 && t.ps.toByte == 0x00 && t.pc == 0x1003) = true := by decide
theorem test_T4 :
    ran [0xB9, 0xFF, 0xFF] { start with y := 0x02, mem := [(0x0001,0x7E)] }
      (fun t => t.a == 0x7E) = true := by decide
theorem test_T5 :
    ran [0xA1, 0xF0] { start with x := 0x20, mem := [(0x10,0x34),(0x11,0x12),(0x1234,0xAB)] }
      (fun t => t.a == 0xAB && t.ps.toByte == 0x80) = true := by decide
theorem test_T6a :
    ran [0xB1, 0xFF] { start with y := 0x01, mem := [(0x00,0x20),(0xFF,0xFF),(0x100,0x30),(0x2100,0x11),(0x3100,0x22)] }
      (fun t => t.a == 0x11) = true := by decide
theorem test_T6b :
    ran [0xB1, 0xFF] { start with y := 0x01, cfg := {Config.typical with zpPtrWrap := false}, mem := [(0x00,0x20),(0xFF,0xFF),(0x100,0x30),(0x2100,0x11),(0x3100,0x22)] }
      (fun t => t.a == 0x22) = true := by decide
theorem test_T7 :
    ran [0xA5, 0x20] { start with ps := Status.ofByte 0x20, a := 0x77, x := 0x40, mem := [(0x20,0x80),(0x40,0x01)] }
      (fun t => t.peek 0x40 == 0x80 && t.a == 0x77 && t.ps.toByte == 0xA0) = true := by decide
theorem test_T8 :
    ran [0x3C, 0x5A, 0x10] { start with ps := Status.ofByte 0xC3 }
      (fun t => t.peek 0x10 == 0x5A && t.ps.toByte == 0xC3 && t.pc == 0x1003) = true := by decide
theorem test_T9 :
    ran [0xB6, 0x62] { start with y := 0x03, x := 0x55, mem := [(0x65,0x00)] }
      (fun t => t.x == 0 && t.ps.toByte == 0x02) = true := by decide
theorem test_T10 :
    ran [0xBC, 0x00, 0x20] { start with x := 0x10, mem := [(0x2010,0x80)] }
      (fun t => t.y == 0x80 && t.ps.toByte == 0x80) = true := by decide
theorem test_T11 :
    ran [0x91, 0x30] { start with a := 0x5A, y := 0x10, mem := [(0x30,0xF8),(0x31,0x02)] }
      (fun t => t.peek 0x308 == 0x5A && t.ps.toByte == 0x00) = true := by decide
theorem test_T12 :
    ran [0x81, 0xFF] { start with a := 0x5A, x := 0x02, mem := [(0x01,0x00),(0x02,0x03)] }
      (fun t => t.peek 0x300 == 0x5A) = true := by decide
theorem test_T13 :
    ran [0x96, 0xF0] { start with x := 0x11, y := 0x20 }
      (fun t => t.peek 0x10 == 0x11) = true := by decide
theorem test_T14 :
    ran [0x8C, 0x34, 0x12] { start with y := 0x99 }
      (fun t => t.peek 0x1234 == 0x99) = true := by decide
theorem test_T15 :
    ran [0xAA] { start with a := 0x80, x := 0x01 }
      (fun t => t.x == 0x80 && t.ps.toByte == 0x80) = true := by decide
theorem test_T16 :
    ran [0xBA] { start with sp := 0x00, x := 0x05, ps := Status.ofByte 0x80 }
      (fun t => t.x == 0 && t.ps.toByte == 0x02) = true := by decide
theorem test_T17 :
    ran [0x9A] { start with x := 0x00, sp := 0x55, ps := Status.ofByte 0x80 }
      (fun t => t.sp == 0 && t.ps.toByte == 0x80) = true := by decide
theorem test_T18 :
    ran [0x48] { start with a := 0x12, sp := 0x00 }
      (fun t => t.peek 0x100 == 0x12 && t.sp == 0xFF) = true := by decide
theorem test_T19 :
    ran [0x68] { start with sp := 0xFF, mem := [(0x100,0x80)] }
      (fun t => t.sp == 0 && t.a == 0x80 && t.ps.toByte == 0x80) = true := by decide
theorem test_T20 :
    ran [0x08] { start with ps := Status.ofByte 0xFF, sp := 0x80, cfg := {Config.typical with stackPage := .page0} }
      (fun t => t.peek 0x80 == 0xFF && t.sp == 0x7F) = true := by decide
theorem test_T21 :
    ran [0x28] { start with sp := 0xFE, mem := [(0x1FF,0x3C)] }
      (fun t => t.ps.toByte == 0x3C && t.sp == 0xFF) = true := by decide
theorem test_A1 :
    ran [0x69, 0x50] { start with a := 0x50 }
      (fun t => t.a == 0xA0 && t.ps.toByte == 0xC0) = true := by decide
theorem test_A2 :
    ran [0x69, 0x01] { start with a := 0xFF }
      (fun t => t.a == 0 && t.ps.toByte == 0x03) = true := by decide
theorem test_A3 :
    ran [0x69, 0x00] { start with a := 0x7F, ps := Status.ofByte 0x01 }
      (fun t => t.a == 0x80 && t.ps.toByte == 0xC0) = true := by decide
theorem test_A4 :
    ran [0x69, 0x80] { start with a := 0x80 }
      (fun t => t.a == 0 && t.ps.toByte == 0x43) = true := by decide
theorem test_A5 :
    ran [0x69, 0xFF] { start with a := 0xFF, ps := Status.ofByte 0x01 }
      (fun t => t.a == 0xFF && t.ps.toByte == 0x81) = true := by decide
theorem test_A6 :
    ran [0xE9, 0xF0] { start with a := 0x50, ps := Status.ofByte 0x01 }
      (fun t => t.a == 0x60 && t.ps.toByte == 0x00) = true := by decide
theorem test_A7 :
    ran [0xE9, 0xB0] { start with a := 0x50, ps := Status.ofByte 0x01 }
      (fun t => t.a == 0xA0 && t.ps.toByte == 0xC0) = true := by decide
theorem test_A8 :
    ran [0xE9, 0x01] { start with a := 0x00, ps := Status.ofByte 0x01 }
      (fun t => t.a == 0xFF && t.ps.toByte == 0x80) = true := by decide
theorem test_A9 :
    ran [0xE9, 0x01] { start with a := 0x80, ps := Status.ofByte 0x01 }
      (fun t => t.a == 0x7F && t.ps.toByte == 0x41) = true := by decide
theorem test_A10 :
    ran [0xE9, 0x42] { start with a := 0x42, ps := Status.ofByte 0x01 }
      (fun t => t.a == 0x00 && t.ps.toByte == 0x03) = true := by decide
theorem test_A11 :
    ran [0xE9, 0x05] { start with a := 0x10 }
      (fun t => t.a == 0x0A && t.flag .c) = true := by decide
theorem test_A12 :
    ran [0xE9, 0x00] { start with a := 0x00 }
      (fun t => t.a == 0xFF && t.ps.toByte == 0x80) = true := by decide
theorem test_A13 :
    ran [0x69, 0x46] { start with a := 0x58, ps := Status.ofByte 0x08 }
      (fun t => t.a == 0x04 && t.flag .c && t.flag .d) = true := by decide
theorem test_A14 :
    ran [0x69, 0x01] { start with a := 0x99, ps := Status.ofByte 0x08 }
      (fun t => t.a == 0x00 && t.flag .c) = true := by decide
theorem test_A15 :
    ran [0x69, 0x27] { start with a := 0x15, ps := Status.ofByte 0x09 }
      (fun t => t.a == 0x43 && !t.flag .c) = true := by decide
theorem test_A16 :
    ran [0x69, 0x99] { start with a := 0x99, ps := Status.ofByte 0x09 }
      (fun t => t.a == 0x99 && t.flag .c) = true := by decide
theorem test_A18 :
    ran [0xE9, 0x12] { start with a := 0x46, ps := Status.ofByte 0x09 }
      (fun t => t.a == 0x34 && t.flag .c) = true := by decide
theorem test_A19 :
    ran [0xE9, 0x34] { start with a := 0x12, ps := Status.ofByte 0x09 }
      (fun t => t.a == 0x78 && !t.flag .c) = true := by decide
theorem test_A20 :
    ran [0xE9, 0x01] { start with a := 0x00, ps := Status.ofByte 0x08 }
      (fun t => t.a == 0x98 && !t.flag .c) = true := by decide
theorem test_A21 :
    ran [0xE9, 0x25] { start with a := 0x50, ps := Status.ofByte 0x08 }
      (fun t => t.a == 0x24 && t.flag .c) = true := by decide
theorem test_A22 :
    ran [0x69, 0x34] { start with ps := Status.ofByte 0x20, a := 0xEE, x := 0x30, mem := [(0x30,0x12)] }
      (fun t => t.peek 0x30 == 0x46 && t.a == 0xEE && t.ps.toByte == 0x20) = true := by decide
theorem test_A23 :
    ran [0xE5, 0x31] { start with ps := Status.ofByte 0x21, a := 0xEE, x := 0x30, mem := [(0x30,0x12),(0x31,0x13)] }
      (fun t => t.peek 0x30 == 0xFF && t.a == 0xEE && t.ps.toByte == 0xA0) = true := by decide
theorem test_A24 :
    ran [0x65, 0x31] { start with ps := Status.ofByte 0x28, x := 0x30, mem := [(0x30,0x19),(0x31,0x03)] }
      (fun t => t.peek 0x30 == 0x22 && !t.flag .c) = true := by decide
theorem test_A25 :
    ran [0x3A] { start with a := 0xFF, ps := Status.ofByte 0x01 }
      (fun t => t.a == 0 && t.ps.toByte == 0x03) = true := by decide
theorem test_A26 :
    ran [0xF6, 0x10] { start with x := 0x05, mem := [(0x15,0x7F)] }
      (fun t => t.peek 0x15 == 0x80 && t.ps.toByte == 0x80) = true := by decide
theorem test_A27 :
    ran [0xCE, 0x00, 0x02] { start with mem := [(0x200,0x00)] }
      (fun t => t.peek 0x200 == 0xFF && t.ps.toByte == 0x80) = true := by decide
theorem test_A28 :
    ran [0xE8] { start with x := 0xFF }
      (fun t => t.x == 0 && t.ps.toByte == 0x02) = true := by decide
theorem test_A29 :
    ran [0xCA] { start with x := 0x00 }
      (fun t => t.x == 0xFF && t.ps.toByte == 0x80) = true := by decide
theorem test_A30 :
    ran [0xC8] { start with y := 0x7F }
      (fun t => t.y == 0x80 && t.ps.toByte == 0x80) = true := by decide
theorem test_A31 :
    ran [0x88] { start with y := 0x01 }
      (fun t => t.y == 0x00 && t.ps.toByte == 0x02) = true := by decide
theorem test_A32 :
    ran [0x62, 0x10] { start with a := 0xFF, x := 0x02, sp := 0xF0, mem := [(0x12,0xFF)] }
      (fun t => t.peek 0x1F0 == 0xFE && t.sp == 0xEF && t.a == 0x01 && t.ps.toByte == 0) = true := by decide
theorem test_A33 :
    ran [0x62, 0x00] { start with a := 0x10, x := 0x12, sp := 0xF0, ps := Status.ofByte 0x83, mem := [(0x12,0x10)] }
      (fun t => t.peek 0x1F0 == 0x01 && t.a == 0 && t.ps.toByte == 0x83) = true := by decide
theorem test_A35 :
    ran [0xE2, 0x20] { start with a := 0x10, sp := 0xF0, mem := [(0x20,0x34),(0x21,0x02)] }
      (fun t => t.a == 0x23 && t.peek 0x1F0 == 0xFB && t.sp == 0xEF) = true := by decide
theorem test_A36 :
    ran [0xE2, 0x20] { start with a := 0x01, sp := 0xF0, mem := [(0x20,0xFF),(0x21,0x00)] }
      (fun t => t.a == 0xFF && t.peek 0x1F0 == 0xFF) = true := by decide
theorem test_A37 :
    ran [0xE2, 0x20] { start with a := 0xFF, sp := 0xF0, mem := [(0x20,0xFF),(0x21,0xFE)] }
      (fun t => t.a == 0xFF && t.peek 0x1F0 == 0x01) = true := by decide
theorem test_A38 :
    ran [0xE2, 0x20] { start with a := 0xFF, sp := 0xF0, mem := [(0x20,0x00),(0x21,0xFF)] }
      (fun t => t.sp == 0xEF && t.draws == 2) = true := by decide
theorem test_A40 :
    ran [0xE2, 0xF0] { start with a := 0x02, x := 0x0F, sp := 0xF0, cfg := {Config.typical with zpPtrWrap := false}, mem := [(0x00,0x01),(0xFF,0x07),(0x100,0x00)] }
      (fun t => t.a == 0x03 && t.peek 0x1F0 == 0xFE) = true := by decide
theorem test_L1 :
    ran [0x29, 0x0F] { start with a := 0xF0 }
      (fun t => t.a == 0 && t.ps.toByte == 0x02) = true := by decide
theorem test_L2 :
    ran [0x39, 0x00, 0x30] { start with a := 0xFF, y := 0x01, mem := [(0x3001,0x81)] }
      (fun t => t.a == 0x81 && t.ps.toByte == 0x80) = true := by decide
theorem test_L3 :
    ran [0x09, 0x80] { start with ps := Status.ofByte 0x20, a := 0x11, x := 0x30, mem := [(0x30,0x01)] }
      (fun t => t.peek 0x30 == 0x81 && t.a == 0x11 && t.ps.toByte == 0xA0) = true := by decide
theorem test_L4 :
    ran [0x49, 0xFF] { start with a := 0xFF }
      (fun t => t.a == 0 && t.ps.toByte == 0x02) = true := by decide
theorem test_L5 :
    ran [0x45, 0x10] { start with a := 0x0F, mem := [(0x10,0xF0)] }
      (fun t => t.a == 0xFF && t.ps.toByte == 0x80) = true := by decide
theorem test_L6 :
    ran [0x44, 0x40] { start with mem := [(0x40,0xFF)] }
      (fun t => t.peek 0x40 == 0 && t.ps.toByte == 0x02) = true := by decide
theorem test_L7 :
    ran [0x44, 0x40] { start with ps := Status.ofByte 0x43, mem := [(0x40,0x7F)] }
      (fun t => t.peek 0x40 == 0x80 && t.ps.toByte == 0xC1) = true := by decide
theorem test_L8 :
    ran [0x24, 0x10] { start with a := 0x01, mem := [(0x10,0xC0)] }
      (fun t => t.ps.toByte == 0xC2 && t.a == 0x01) = true := by decide
theorem test_L9 :
    ran [0x2C, 0x00, 0x20] { start with a := 0xFF, ps := Status.ofByte 0xC2, mem := [(0x2000,0x3F)] }
      (fun t => t.ps.toByte == 0x00) = true := by decide
theorem test_L10 :
    ran [0x64, 0x20] { start with ps := Status.ofByte 0x80, mem := [(0x20,0x00)] }
      (fun t => t.ps.toByte == 0x02) = true := by decide
theorem test_L11 :
    ran [0xC9, 0x20] { start with a := 0x10 }
      (fun t => t.ps.toByte == 0x80 && t.a == 0x10) = true := by decide
theorem test_L13 :
    ran [0xC9, 0x01] { start with a := 0x80, ps := Status.ofByte 0x40 }
      (fun t => t.ps.toByte == 0x41) = true := by decide
theorem test_L14 :
    ran [0xC9, 0x05] { start with ps := Status.ofByte 0x20, a := 0x00, x := 0x30, mem := [(0x30,0x05)] }
      (fun t => t.ps.toByte == 0x23 && t.peek 0x30 == 0x05) = true := by decide
theorem test_L15 :
    ran [0xE4, 0x10] { start with x := 0x10, mem := [(0x10,0x11)] }
      (fun t => t.ps.toByte == 0x80) = true := by decide
theorem test_L16 :
    ran [0xCC, 0x00, 0x20] { start with y := 0xFF, mem := [(0x2000,0x00)] }
      (fun t => t.ps.toByte == 0x81) = true := by decide
theorem test_L17 :
    ran [0x0A] { start with a := 0x80 }
      (fun t => t.a == 0 && t.ps.toByte == 0x03) = true := by decide
theorem test_L18 :
    ran [0x06, 0x10] { start with ps := Status.ofByte 0x01, mem := [(0x10,0x41)] }
      (fun t => t.peek 0x10 == 0x82 && t.ps.toByte == 0x80) = true := by decide
theorem test_L19 :
    ran [0x4A] { start with a := 0x01, ps := Status.ofByte 0x80 }
      (fun t => t.a == 0 && t.ps.toByte == 0x03) = true := by decide
theorem test_L20 :
    ran [0x5E, 0x00, 0x20] { start with x := 0x01, mem := [(0x2001,0x82)] }
      (fun t => t.peek 0x2001 == 0x41 && t.ps.toByte == 0x00) = true := by decide
theorem test_L21 :
    ran [0x2A] { start with a := 0x40, ps := Status.ofByte 0x01 }
      (fun t => t.a == 0x81 && t.ps.toByte == 0x80) = true := by decide
theorem test_L22 :
    ran [0x2A] { start with a := 0x80 }
      (fun t => t.a == 0 && t.ps.toByte == 0x03) = true := by decide
theorem test_L23 :
    ran [0x66, 0x10] { start with ps := Status.ofByte 0x01, mem := [(0x10,0x00)] }
      (fun t => t.peek 0x10 == 0x80 && t.ps.toByte == 0x80) = true := by decide
theorem test_L24 :
    ran [0x6A] { start with a := 0x01 }
      (fun t => t.a == 0 && t.ps.toByte == 0x03) = true := by decide
theorem test_L25 :
    ran [0x82, 0x50] { start with ps := Status.ofByte 0x83, mem := [(0x50,0xA5)] }
      (fun t => t.peek 0x50 == 0x5A && t.ps.toByte == 0x83) = true := by decide
theorem test_L26 :
    ran [0x82, 0x50] { start with mem := [(0x50,0x0F)] }
      (fun t => t.peek 0x50 == 0xF0) = true := by decide
theorem test_B1 :
    ran [0xBB] { start with a := 0xFF }
      (fun t => t.a == 0xDF && t.ps.toByte == 0) = true := by decide
theorem test_B2 :
    ran [0x1B] { start with a := 0x01, ps := Status.ofByte 0x80 }
      (fun t => t.a == 0x00 && t.ps.toByte == 0x80) = true := by decide
theorem test_B3 :
    ran [0xBF, 0x44] { start with mem := [(0x44,0xFF)] }
      (fun t => t.peek 0x44 == 0xDF) = true := by decide
theorem test_B4 :
    ran [0xEF, 0x10] { start with mem := [(0x10,0x00)] }
      (fun t => t.peek 0x10 == 0x80) = true := by decide
theorem test_B5 : ran [0x6B] { start with a := 0x00 } (fun t => t.a == 0x08) = true := by decide
theorem test_B6 :
    ran [0x18] { start with ps := Status.ofByte 0xFF }
      (fun t => t.ps.toByte == 0xFE) = true := by decide
theorem test_B7 :
    ran [0x38] { start with ps := Status.ofByte 0x00 }
      (fun t => t.ps.toByte == 0x01) = true := by decide
theorem test_B8 :
    ran [0xD8] { start with ps := Status.ofByte 0xFF }
      (fun t => t.ps.toByte == 0xF7) = true := by decide
theorem test_B9 :
    ran [0xF8] { start with ps := Status.ofByte 0x00 }
      (fun t => t.ps.toByte == 0x08) = true := by decide
theorem test_B10 :
    ran [0x58] { start with ps := Status.ofByte 0xFF }
      (fun t => t.ps.toByte == 0xFB) = true := by decide
theorem test_B11 :
    ran [0x78] { start with ps := Status.ofByte 0x00 }
      (fun t => t.ps.toByte == 0x04) = true := by decide
theorem test_B12 :
    ran [0x12] { start with ps := Status.ofByte 0xFF }
      (fun t => t.ps.toByte == 0xDF) = true := by decide
theorem test_B13 :
    ran [0x32] { start with ps := Status.ofByte 0x00 }
      (fun t => t.ps.toByte == 0x20) = true := by decide
theorem test_B14 :
    ran [0xB8] { start with ps := Status.ofByte 0xFF }
      (fun t => t.ps.toByte == 0xBF) = true := by decide
theorem test_J1 : ran [0x4C, 0x34, 0x12] start (fun t => t.pc == 0x1234) = true := by decide
theorem test_J2 :
    ran [0x6C, 0x00, 0x14] { start with mem := [(0x1400,0xFF),(0x1401,0x1E)] }
      (fun t => t.pc == 0x1EFF) = true := by decide
theorem test_J4 :
    ran [0xB2, 0x45] { start with mem := [(0x45,0xFF),(0x46,0x1E)] }
      (fun t => t.pc == 0x1EFF) = true := by decide
theorem test_J5 :
    ran [0xB2, 0xFF] { start with cfg := {Config.typical with zpPtrWrap := false}, mem := [(0x00,0x30),(0xFF,0x00),(0x100,0x40)] }
      (fun t => t.pc == 0x4000) = true := by decide
theorem test_J6 : ran [0x80, 0x7F] start (fun t => t.pc == 0x1081) = true := by decide
theorem test_J10 :
    ran [0x80, 0xF0] { start with pc := 0x0002 }
      (fun t => t.pc == 0xFFF4) = true := by decide
theorem test_J11 : ran [0x90, 0xF2] start (fun t => t.pc == 0x0FF4) = true := by decide
theorem test_J12 :
    ran [0x90, 0xF2] { start with ps := Status.ofByte 0x01 }
      (fun t => t.pc == 0x1002) = true := by decide
theorem test_J13 :
    ran [0xB0, 0x10] { start with ps := Status.ofByte 0x01 }
      (fun t => t.pc == 0x1012) = true := by decide
theorem test_J14 : ran [0xD0, 0x05] start (fun t => t.pc == 0x1007) = true := by decide
theorem test_J15 : ran [0xF0, 0x05] start (fun t => t.pc == 0x1002) = true := by decide
theorem test_J16 :
    ran [0xF0, 0x05] { start with ps := Status.ofByte 0x02 }
      (fun t => t.pc == 0x1007) = true := by decide
theorem test_J17 :
    ran [0x10, 0x05] { start with ps := Status.ofByte 0x80 }
      (fun t => t.pc == 0x1002) = true := by decide
theorem test_J18 :
    ran [0x30, 0x05] { start with ps := Status.ofByte 0x80 }
      (fun t => t.pc == 0x1007) = true := by decide
theorem test_J19 :
    ran [0x50, 0x05] { start with ps := Status.ofByte 0x40 }
      (fun t => t.pc == 0x1002) = true := by decide
theorem test_J20 :
    ran [0x70, 0x05] { start with ps := Status.ofByte 0x40 }
      (fun t => t.pc == 0x1007) = true := by decide
theorem test_J21 :
    ran [0xB3, 0xF2] { start with a := 0xDF }
      (fun t => t.pc == 0x0FF4) = true := by decide
theorem test_J22 :
    ran [0xB3, 0xF2] { start with a := 0x20 }
      (fun t => t.pc == 0x1002) = true := by decide
theorem test_J23 :
    ran [0xB7, 0x04, 0xF1] { start with mem := [(0x04,0x00)] }
      (fun t => t.pc == 0x0FF4) = true := by decide
theorem test_J24 :
    ran [0x07, 0x10, 0x05] { start with pc := 0x2000, mem := [(0x10,0x01)] }
      (fun t => t.pc == 0x2008) = true := by decide
theorem test_J25 :
    ran [0xE3, 0x05] { start with a := 0x7F }
      (fun t => t.pc == 0x1002) = true := by decide
theorem test_J26 :
    ran [0x20, 0x00, 0x04] { start with pc := 0x0300, sp := 0xFF }
      (fun t => t.peek 0x1FF == 0x03 && t.peek 0x1FE == 0x02 && t.sp == 0xFD && t.pc == 0x0400) = true := by decide
theorem test_J27 :
    ran [0x22, 0xC0] { start with pc := 0x0300, sp := 0xFF }
      (fun t => t.peek 0x1FF == 0x03 && t.peek 0x1FE == 0x01 && t.sp == 0xFD && t.pc == 0xFFC0) = true := by decide
theorem test_J28 :
    ran [0x02, 0x45] { start with pc := 0x0300, sp := 0xFF, mem := [(0x45,0x00),(0x46,0x80)] }
      (fun t => t.peek 0x1FE == 0x01 && t.pc == 0x8000) = true := by decide
theorem test_J29 :
    ran [0x20, 0x00, 0x04] { start with pc := 0x12FE, sp := 0x00 }
      (fun t => t.peek 0x100 == 0x13 && t.peek 0x1FF == 0x00 && t.sp == 0xFE) = true := by decide
theorem test_J30 :
    ran [0x60] { start with sp := 0xFD, mem := [(0x1FE,0x02),(0x1FF,0x03)] }
      (fun t => t.pc == 0x0303 && t.sp == 0xFF) = true := by decide
theorem test_J31 :
    ran [0x60] { start with sp := 0xFD, mem := [(0x1FE,0xFF),(0x1FF,0xFF)] }
      (fun t => t.pc == 0x0000) = true := by decide
theorem test_J32 :
    ran [0x40] { start with sp := 0xFC, ps := Status.ofByte 0x04, mem := [(0x1FD,0x21),(0x1FE,0x34),(0x1FF,0x12)] }
      (fun t => t.ps.toByte == 0x21 && t.pc == 0x1234 && t.sp == 0xFF) = true := by decide
theorem test_X1 :
    ran [0x00] { start with pc := 0x8010, sp := 0xFF, ps := Status.ofByte 0x21, mem := [(0xFFF4,0x00),(0xFFF5,0xC0)] }
      (fun t => t.peek 0x1FF == 0x80 && t.peek 0x1FE == 0x12 && t.peek 0x1FD == 0x31 && t.sp == 0xFC && t.ps.toByte == 0x35 && t.pc == 0xC000) = true := by decide
theorem test_X2 :
    ran [0x00] { start with pc := 0xFFFF, sp := 0x01, ps := Status.ofByte 0xC4, mem := [(0xFFF4,0x00),(0xFFF5,0xC0)] }
      (fun t => t.peek 0x101 == 0 && t.peek 0x100 == 0x01 && t.peek 0x1FF == 0xD4 && t.sp == 0xFE && t.ps.toByte == 0xD4) = true := by decide
theorem test_X3 :
    ran [0xEA] { start with ps := Status.ofByte 0xA5 }
      (fun t => t.pc == 0x1001 && t.ps.toByte == 0xA5) = true := by decide
theorem test_X4 :
    ran [0xC2] start
      (fun t => t.run == .waiting && t.pc == 0x1001) = true := by decide
theorem test_X5 :
    ran [0x42] start
      (fun t => t.run == .stopped && t.pc == 0x1001) = true := by decide
theorem test_X6 :
    ran [0x42] { start with cfg := {Config.typical with stpEnabled := false} }
      (fun t => t.run == .running && t.pc == 0x1001) = true := by decide
theorem test_J3 : stops [0x6C, 0xFF, 0x14] start .jmpIndirectPageEnd = true := by decide
theorem test_X7 : stops [0x04] start (.undefinedOpcode 0x04) = true := by decide
theorem test_noMul :
    stops [0x62, 0x10] { start with cfg := { Config.typical with hasMulDiv := false } }
      (.undefinedOpcode 0x62) = true := by decide

/-- The start of X8: source t requests and is enabled. -/
def requested (p : Byte) : State :=
  { start with
    pc := 0x1234
    sp := 0xFF
    ps := Status.ofByte p
    lines := [⟨timer, true, true⟩]
    mem := [(0x1234, 0xEA), (0xFFF8, 0x00), (0xFFF9, 0xC3)] }

theorem test_X8 : stepped (requested 0xA3) (fun t => t.peek 0x1FF == 0x12 && t.peek 0x1FE == 0x34
    && t.peek 0x1FD == 0xA3 && t.sp == 0xFC && t.ps.toByte == 0xA7 && t.pc == 0xC300
    && t.lines == [⟨timer, false, true⟩]) = true := by decide
theorem test_X9 : stepped (requested 0x31) (fun t => t.peek 0x1FD == 0x21 && t.ps.toByte == 0x25) = true := by
  decide
theorem test_X10 : stepped (requested 0xA7) (fun t => t.pc == 0x1235 && t.sp == 0xFF) = true := by decide

/-- The platform's part of the reset of X11. -/
def anyReset : ResetValues where
  a := 0x11
  x := 0x22
  y := 0x33
  sp := 0x44
  ps := 0xFB
  image := [(0xFFFF, 0xC0), (0xFFFE, 0x00)]
  bits := [(false, true)]

theorem test_X11 : stepped { start with run := .stopped, inputs := [.reset anyReset] } (fun t =>
    t.pc == 0xC000 && t.flag .i && t.run == .running && t.a == 0x11 && t.sp == 0x44) = true := by
  decide

/-- R113, D24: without MUL its code stops the model and no byte after it is read. -/
theorem test_mul_absent_reads_no_more :
    (match step { start with
      mem := [(0x1000, 0x62)]
      cfg := { Config.typical with hasMulDiv := false, map := [⟨0x1001, 1, .unimplemented⟩] } } with
    | .fault f => decide (f = .undefinedOpcode 0x62)
    | .next _ | .refused _ => false) = true := by decide

/-- P4: waiting with I = 0, the request arrives, and the next step is the entry. -/
theorem test_wake_accepts :
    stepped { requested 0x80 with
        run := .waiting, lines := [⟨timer, false, true⟩], inputs := [.requests [0]] }
      (fun t => t.run == .running && t.pc == 0xC300 && t.peek 0x1FD == 0x80) = true := by decide
/-- R352: an interrupt entry is no instruction, so that the store before it stays remembered. -/
theorem test_entry_keeps_stores :
    stepped { requested 0x00 with lastWrites := [0x003C], afterDecimal := true }
      (fun t => t.lastWrites.contains 0x003C && !t.afterDecimal && t.pc == 0xC300) = true := by decide
/-- R71: a store to an I/O location leaves the sources it does not reach, and the enable bit written there is
the one stored whatever else the platform decides. -/
theorem test_io_store_reaches :
    ran [0x85, 0x3E] { requested 0x04 with
        pc := 0x1000, a := 0x08
        lines := [⟨{ timer with reachedFrom := [0x003E] }, true, false⟩,
          ⟨{ timer with enableAddr := 0x0040 }, true, false⟩] }
      (fun t => t.lines.map Line.enable == [true, false] && (t.lines.map Line.request)[1]? == some true) = true := by
  decide
/-- R326: in the stop state an internal source does not wake the CPU. -/
theorem test_stop_needs_external :
    stepped { requested 0x80 with run := .stopped, inputs := [.requests []] }
      (fun t => t.run == .stopped && t.pc == 0x1234) = true := by decide
/-- R326: with `WAKE_NEEDS_ACCEPT` false and I = 1 execution goes on after WIT. -/
theorem test_wake_masked :
    stepped { requested 0x84 with
        run := .waiting, cfg := { Config.typical with wakeNeedsAccept := false } }
      (fun t => t.run == .running && t.pc == 0x1235) = true := by decide
/-- U18: nothing can wake the CPU any more. -/
theorem test_no_wake_event : (match step { requested 0x84 with run := .waiting } with
    | .fault f => decide (f = .noWakeEvent)
    | _ => false) = true := by decide
/-- R313: the first source of the list is accepted. -/
theorem test_priority :
    stepped { requested 0x00 with
        lines := [⟨timer, false, true⟩, ⟨timer, true, true⟩, ⟨timer, true, true⟩] }
      (fun t => t.lines == [⟨timer, false, true⟩, ⟨timer, false, true⟩, ⟨timer, true, true⟩]) = true := by
  decide
/-- R310, R311: LDM writes 0 to the request bit of the source and leaves its enable bit. -/
theorem test_request_cleared :
    ran [0x3C, 0x00, 0x3C] { requested 0x04 with pc := 0x1000 }
      (fun t => t.lines == [⟨timer, false, true⟩]) = true := by decide
/-- R352: directly after a store to it the bit is a free draw; the branch still completes. -/
theorem test_stale_request_bit :
    ran [0x67, 0x3C, 0x05] { requested 0x04 with pc := 0x1000, lastWrites := [0x003C] }
      (fun t => t.draws == 2) = true := by decide
/-- R350, R357: CLD directly after a decimal ADC draws D and C. -/
theorem test_decimal_hazard :
    ran [0xD8] { start with ps := Status.ofByte 0x08, afterDecimal := true } (fun t => t.draws == 2) = true := by decide
/-- R82, U10: an unimplemented address and a store to ROM. -/
theorem test_unimplemented :
    stops [0xAD, 0x00, 0x40] { start with cfg := { Config.typical with map := [⟨0x4000, 16, .unimplemented⟩] } }
      (.unimplementedAddress 0x4000) = true := by decide
theorem test_rom_write_ignored :
    ran [0x8D, 0x00, 0x40] { start with
        a := 0x55
        mem := [(0x4000, 0x12)]
        cfg := { Config.typical with map := [⟨0x4000, 16, .rom true⟩] } }
      (fun t => t.peek 0x4000 == 0x12) = true := by decide

/-! ### Cycle numbers (R361, R362) -/

theorem test_cycles_sty_abs : cycles (.styAbs 0x1234) false false = 5 := by decide
theorem test_cycles_adc_t : cycles (.adcImm 0x34) true false = 5 := by decide
theorem test_cycles_bbc_taken : cycles (.bbcZp 5 0x04 0xF1) false true = 7 := by decide

/-! ### Statement forms: examples of the spec (R115) -/

theorem test_statement_imm : statement 0x1000 (.adcImm 0xA5) = "ADC #$A5" := by decide
theorem test_statement_indY : statement 0x1000 (.adcIndY 0x1E) = "ADC ($1E),Y" := by decide
theorem test_statement_special : statement 0x1000 (.jsrSp 0xC0) = "JSR \\$FFC0" := by decide
/-- BBC 5,A,*-12 at 1000. -/
theorem test_statement_bbc : statement 0x1000 (.bbcAcc 5 0xF2) = "BBC 5,A,$0FF4" := by decide

/-! ### The machine from reset -/

theorem test_decode_of_placed : (State.reset.withFetchWord 16 0x5AA9).mem = [(0xC000, 0xA9), (0xC001, 0x5A), (0xC002, 0x00)] := by
  decide
theorem test_first_step : stepped (State.reset.withFetchWord 16 0x5AA9) (fun t => t.a == 0x5A) = true := by
  decide

/-! ### Hypotheses met: for each statement that has some, a state and operands that meet all of them -/

/-- T = 0 and D = 0; two bytes of data; an interrupt source whose bits lie at 003C and 003E. -/
def sample : State :=
  { start with
    a := 0x46, x := 0x30, y := 0x01, sp := 0x00, pc := 0x1000, lines := [⟨timer, true, false⟩]
    mem := [(0x10, 0x00), (0x11, 0x02), (0x30, 0x12), (0xFF, 0x27)] }

/-- The same with other flags, PS given as a byte. -/
def sampleWith (p : Byte) : State := { sample with ps := Status.ofByte p }

theorem stepped_next {s : State} {p : State → Bool} (h : stepped s p = true) : ∃ t, step s = .next t := by
  unfold stepped at h
  split at h
  · exact ⟨_, by assumption⟩
  · cases h
  · cases h

theorem witness_EncodeDecode : decode [0xEF, 0x10, 0x00] = .ok (.sebZp 7 0x10, [0x00]) := by decide

theorem witness_UndefinedOperationCodes :
    ∃ (s u : State) (op : Byte), s.executesNext ∧ op ∈ undefinedOpcodes ∧
      s.atBoundary.fetchByte s.pc = .ok (op, u) :=
  ⟨{ start with mem := [(0x1000, 0xFC)] }, _, 0xFC, ⟨fun _ _ h => (by cases h), rfl, .inr (by decide)⟩,
    by decide, rfl⟩

theorem witness_StepRunsTheInstruction :
    ∃ (s t : State) (i : Instr), s.executesNext ∧ s.atBoundary.fetch = .ok (i, t) ∧ i.wellFormed = true ∧
      ∀ k v, (encode i)[k]? = some v → s.atBoundary.fetchHolds (s.pc + BitVec.ofNat 16 k) v := by
  refine ⟨{ start with pc := 0xFFFF, mem := [(0x0000, 0x5A), (0xFFFF, 0xA9)] }, _, .ldaImm 0x5A,
    ⟨fun _ _ h => (by cases h), rfl, .inr (by decide)⟩, rfl, rfl, ?_⟩
  intro k v h
  match k with
  | 0 => cases h; exact ⟨.inl rfl, by decide, rfl⟩
  | 1 => cases h; exact ⟨.inl rfl, by decide, rfl⟩
  | k + 2 => cases h

theorem witness_PlainMemoryReadsAsLastWritten :
    sample.isRam 0x0000 ∧ sample.isRam 0xFFFF ∧ (0xFFFF : Addr) ≠ 0x0000 ∧ sample.isPlain 0xFFFF :=
  ⟨rfl, rfl, by decide, .inl rfl⟩

theorem witness_RequestAndEnableBitsInMemory :
    sample.lines = [] ++ ⟨timer, true, false⟩ :: [] ∧ (∃ v t, sample.read timer.requestAddr = .ok (v, t)) ∧
      (∃ v t, sample.read timer.enableAddr = .ok (v, t)) ∧
      ¬(timer.enableAddr = timer.requestAddr ∧ timer.enableBit = timer.requestBit) ∧
      timer.enableAddr ≠ timer.requestAddr ∧ timer.enableAddr ∉ timer.reachedFrom ∧
      timer.requestAddr ∉ timer.reachedFrom :=
  ⟨rfl, ⟨_, _, rfl⟩, ⟨_, _, rfl⟩, by decide, by decide, by decide, by decide⟩

/-- The write clause where both bits share one byte: one store clears the request and sets the enable bit. -/
theorem witness_RequestAndEnableBitsInMemory_shared :
    let src := { timer with enableAddr := 0x003C, enableBit := 7 }
    let s := { sample with lines := [⟨src, true, false⟩] }
    s.lines = [] ++ ⟨src, true, false⟩ :: [] ∧ (0x003C : Addr) = src.requestAddr ∧ (0x003C : Addr) = src.enableAddr ∧
      bitOf 0x80 src.requestBit.toNat = false ∧ bitOf 0x80 src.enableBit.toNat = true ∧
      ∃ t, s.write 0x003C 0x80 = .ok t ∧ t.lines = [⟨src, false, true⟩] :=
  ⟨rfl, rfl, rfl, rfl, rfl, _, rfl, rfl⟩

theorem witness_PushAndPull :
    sample.sp = 0x00 ∧ sample.writable sample.stackAddr ∧ sample.isRam sample.stackAddr ∧
      (∃ v u, sample.read (sample.stackAt (sample.sp + 1)) = .ok (v, u)) ∧
      ∃ t, sample.push 0x12 = .ok t :=
  ⟨rfl, .inl rfl, rfl, ⟨_, _, rfl⟩, _, rfl⟩

theorem witness_DirectOperands :
    ∃ a, sample.ea (.absX 0xFFFF) = .ok (a, sample) ∧ a = 0x002F ∧ sample.isPlain a := by
  exact ⟨_, rfl, by decide, .inl rfl⟩

/-- Clauses for ZP_PTR_WRAP true and false, the pointer beginning at the last zero page location. -/
theorem witness_IndirectOperands :
    sample.isPlain (zext16 0xFF) ∧ sample.isPlain (sample.nextZp 0xFF) ∧ sample.nextZp 0xFF = 0x0000 ∧
      (0xFF : Byte) = 0xCF + sample.x ∧
      ({ sample with cfg := { Config.typical with zpPtrWrap := false } }).isPlain
        (({ sample with cfg := { Config.typical with zpPtrWrap := false } }).nextZp 0xFF) :=
  ⟨.inl rfl, .inl rfl, by decide, by decide, .inl rfl⟩

theorem witness_LoadAccumulator :
    (Instr.ldaZp 0xFF).view = (.lda, .ofSrc (.mem (.zp 0xFF))) ∧
      (∃ u, sample.operand (.mem (.zp 0xFF)) = .ok (0x27, u)) ∧ sample.destWritable ∧
      (∃ u, (sampleWith 0x20).operand (.mem (.zp 0xFF)) = .ok (0x27, u)) ∧ (sampleWith 0x20).destWritable ∧
      (sampleWith 0x20).flag .t = true :=
  ⟨rfl, ⟨_, rfl⟩, fun _ => .inl rfl, ⟨_, rfl⟩, fun _ => .inl rfl, rfl⟩

theorem witness_LoadIndexRegister :
    (Instr.ldxZpY 0xFE).view = (.ldx, .ofSrc (.mem (.zpY 0xFE))) ∧
      (∃ u, sample.operand (.mem (.zpY 0xFE)) = .ok (0x27, u)) ∧
      (Instr.ldyImm 0x00).view = (.ldy, .ofSrc (.imm 0x00)) ∧ ∃ u, sample.operand (.imm 0x00) = .ok (0x00, u) :=
  ⟨rfl, ⟨_, rfl⟩, rfl, _, rfl⟩

/-- The second address is an I/O location, the third a byte of ROM that ignores writes. -/
theorem witness_StoreInstructions :
    (Instr.staIndY 0x10).view = (.sta, .mem (.indY 0x10)) ∧
      (∃ u, sample.ea (.indY 0x10) = .ok (0x0201, u)) ∧ sample.writable 0x0201 ∧
      (Instr.stxZp 0x3C).view = (.stx, .mem (.zp 0x3C)) ∧ sample.writable (zext16 0x3C) ∧
      (Instr.styAbs 0xFFFF).view = (.sty, .mem (.abs 0xFFFF)) ∧
      ({ sample with cfg := { Config.typical with map := [⟨0xC000, 0x4000, .rom true⟩] } }).writable 0xFFFF :=
  ⟨rfl, ⟨_, rfl⟩, .inl rfl, rfl, .inr (.inl rfl), rfl, .inr (.inr rfl)⟩

theorem witness_RegisterTransfers :
    (Instr.tsx, Reg.x, sample.sp) ∈ [(Instr.tax, Reg.x, sample.a), (.txa, .a, sample.x), (.tay, .y, sample.a),
      (.tya, .a, sample.y), (.tsx, .x, sample.sp)] := by decide

theorem witness_PushInstructions : sample.writable sample.stackAddr := .inl rfl

theorem witness_PullInstructions :
    ∃ v u, ({ sample with sp := 0xFF }).read (({ sample with sp := 0xFF }).stackAt (0xFF + 1)) = .ok (v, u) :=
  ⟨_, _, rfl⟩

/-- T = 0 and T = 1. -/
theorem witness_BinaryAddition :
    (Instr.adcZp 0xFF).view = (.adc, .ofSrc (.mem (.zp 0xFF))) ∧ sample.flag .d = false ∧
      (∃ u w, sample.operand (.mem (.zp 0xFF)) = .ok (0x27, u) ∧ u.destRead = .ok (0x46, w)) ∧
      sample.destWritable ∧ (sampleWith 0x20).flag .d = false ∧
      (∃ u w, (sampleWith 0x20).operand (.mem (.zp 0xFF)) = .ok (0x27, u) ∧ u.destRead = .ok (0x12, w)) ∧
      (sampleWith 0x20).destWritable :=
  ⟨rfl, rfl, ⟨_, _, rfl, rfl⟩, fun _ => .inl rfl, rfl, ⟨_, _, rfl, rfl⟩, fun _ => .inl rfl⟩

theorem witness_BinarySubtraction :
    (Instr.sbcImm 0xFF).view = (.sbc, .ofSrc (.imm 0xFF)) ∧ (sampleWith 0x21).flag .d = false ∧
      (∃ u w, (sampleWith 0x21).operand (.imm 0xFF) = .ok (0xFF, u) ∧ u.destRead = .ok (0x12, w)) ∧
      (sampleWith 0x21).destWritable :=
  ⟨rfl, rfl, ⟨_, _, rfl, rfl⟩, fun _ => .inl rfl⟩

/-- Two decimal numerals whose sum passes 99. -/
theorem witness_DecimalAddition :
    (Instr.adcImm 0x99).view = (.adc, .ofSrc (.imm 0x99)) ∧ (sampleWith 0x29).flag .d = true ∧
      (∃ u w, (sampleWith 0x29).operand (.imm 0x99) = .ok (0x99, u) ∧ u.destRead = .ok (0x12, w)) ∧
      (sampleWith 0x29).destWritable ∧ isDecimal 0x99 = true ∧ isDecimal 0x12 = true :=
  ⟨rfl, rfl, ⟨_, _, rfl, rfl⟩, fun _ => .inl rfl, rfl, rfl⟩

theorem witness_DecimalSubtraction :
    (Instr.sbcImm 0x99).view = (.sbc, .ofSrc (.imm 0x99)) ∧ (sampleWith 0x08).flag .d = true ∧
      (∃ u w, (sampleWith 0x08).operand (.imm 0x99) = .ok (0x99, u) ∧ u.destRead = .ok (0x46, w)) ∧
      (sampleWith 0x08).destWritable ∧ isDecimal 0x99 = true ∧ isDecimal 0x46 = true :=
  ⟨rfl, rfl, ⟨_, _, rfl, rfl⟩, fun _ => .inl rfl, rfl, rfl⟩

theorem witness_IncrementAndDecrement :
    (Instr.incZp 0xFF).view = (.inc, .ofLoc (.mem (.zp 0xFF))) ∧ (0x28 : Byte) = 0x27 + 1 ∧
      sample.locHolds (.mem (.zp 0xFF)) [0x00FF] 0x27 ∧ Instr.decAcc.view = (.dec, .ofLoc .acc) ∧
      sample.locHolds .acc [] 0x46 :=
  ⟨rfl, rfl, ⟨_, _, _, rfl, rfl, .inl rfl, rfl⟩, rfl, rfl, rfl⟩

theorem witness_IndexIncrementAndDecrement :
    (Instr.dey, Reg.y, sample.y - 1) ∈ [(Instr.inx, Reg.x, sample.x + 1), (.dex, .x, sample.x - 1),
      (.iny, .y, sample.y + 1), (.dey, .y, sample.y - 1)] := by decide

theorem witness_Multiplication :
    sample.cfg.hasMulDiv = true ∧ (∃ u, sample.read (zext16 (0xE0 + sample.x)) = .ok (0x00, u)) ∧
      sample.writable sample.stackAddr :=
  ⟨rfl, ⟨_, rfl⟩, .inl rfl⟩

/-- A divisor and a dividend with a quotient of one byte, and a divisor of 0. -/
theorem witness_Division :
    sample.cfg.hasMulDiv = true ∧ (∃ u, sample.zpPointer (0xE0 + sample.x) = .ok (0x0200, u)) ∧
      sample.writable sample.stackAddr ∧ 0 < sample.a.toNat ∧
      (0x0200 : Addr).toNat / sample.a.toNat ≤ 255 ∧
      (∃ u, ({ sample with a := 0x00 }).zpPointer (0xE0 + sample.x) = .ok (0x0200, u)) :=
  ⟨rfl, ⟨_, rfl⟩, .inl rfl, by decide, by decide, _, rfl⟩

/-- A product without MUL and DIV, the code of MUL at PC and of DIV at the last address, and no byte after the
first that could be read. -/
theorem witness_ProductWithoutMultiply :
    let s := { start with
      mem := [(0x1000, 0x62), (0xFFFF, 0xE2)]
      cfg := { Config.typical with hasMulDiv := false, map := [⟨0x1001, 1, .unimplemented⟩] } }
    s.cfg.hasMulDiv = false ∧ s.executesNext ∧ s.kindAt (s.pc + 1) = .unimplemented ∧
      (∃ u, s.atBoundary.fetchByte s.pc = .ok (0x62, u)) ∧
      ({ s with pc := 0xFFFF }).executesNext ∧
      ∃ u, ({ s with pc := 0xFFFF }).atBoundary.fetchByte 0xFFFF = .ok (0xE2, u) :=
  ⟨rfl, ⟨fun _ _ h => (by cases h), rfl, .inr (by decide)⟩, rfl, ⟨_, rfl⟩,
    ⟨fun _ _ h => (by cases h), rfl, .inr (by decide)⟩, _, rfl⟩

theorem witness_LogicalOperations :
    (Instr.eorIndX 0xE0).view = (.eor, .ofSrc (.mem (.indX 0xE0))) ∧
      (∃ u w v, (sampleWith 0x20).operand (.mem (.indX 0xE0)) = .ok (v, u) ∧ u.destRead = .ok (0x12, w)) ∧
      (sampleWith 0x20).destWritable :=
  ⟨rfl, ⟨_, _, _, rfl, rfl⟩, fun _ => .inl rfl⟩

theorem witness_ComplementOfMemory : sample.locHolds (.mem (.zp 0xFF)) [0x00FF] 0x27 :=
  ⟨_, _, _, rfl, rfl, .inl rfl, rfl⟩

theorem witness_RotateByFour : sample.locHolds (.mem (.zp 0x30)) [0x0030] 0x12 :=
  ⟨_, _, _, rfl, rfl, .inl rfl, rfl⟩

theorem witness_BitTests :
    (Instr.bitAbs 0x00FF).view = (.bit, .mem (.abs 0x00FF)) ∧
      (∃ u, sample.operand (.mem (.abs 0x00FF)) = .ok (0x27, u)) ∧ ∃ u, sample.read (zext16 0xFF) = .ok (0x27, u) :=
  ⟨rfl, ⟨_, rfl⟩, _, rfl⟩

theorem witness_CompareAccumulator :
    (Instr.cmpImm 0x12).view = (.cmp, .ofSrc (.imm 0x12)) ∧
      ∃ u w, (sampleWith 0x20).operand (.imm 0x12) = .ok (0x12, u) ∧ u.destRead = .ok (0x12, w) :=
  ⟨rfl, _, _, rfl, rfl⟩

theorem witness_CompareIndexRegister :
    (Instr.cpxImm 0x30).view = (.cpx, .ofSrc (.imm 0x30)) ∧ (∃ u, sample.operand (.imm 0x30) = .ok (0x30, u)) ∧
      (Instr.cpyZp 0xFF).view = (.cpy, .ofSrc (.mem (.zp 0xFF))) ∧
      ∃ u, sample.operand (.mem (.zp 0xFF)) = .ok (0x27, u) :=
  ⟨rfl, ⟨_, rfl⟩, rfl, _, rfl⟩

theorem witness_ShiftsAndRotates :
    (Instr.rolZp 0xFF).view = (.rol, .ofLoc (.mem (.zp 0xFF))) ∧
      79 = 2 * (0x27 : Byte).toNat % 256 + carryNat ((sampleWith 0x01).flag .c) ∧ false = bitOf 0x27 7 ∧
      (sampleWith 0x01).locHolds (.mem (.zp 0xFF)) [0x00FF] 0x27 ∧
      Instr.lsrAcc.view = (.lsr, .ofLoc .acc) ∧ sample.locHolds .acc [] 0x46 :=
  ⟨rfl, by decide, by decide, ⟨_, _, _, rfl, rfl, .inl rfl, rfl⟩, rfl, rfl, rfl⟩

theorem witness_ClearAndSetBit :
    Instr.sebAcc 7 = (if true then .sebAcc 7 else .clbAcc 7) ∧ sample.locHolds .acc [] 0x46 ∧
      Instr.clbZp 0 0xFF = (if false then .sebZp 0 0xFF else .clbZp 0 0xFF) ∧
      sample.locHolds (.mem (.zp 0xFF)) [0x00FF] 0x27 :=
  ⟨rfl, ⟨rfl, rfl⟩, rfl, _, _, _, rfl, rfl, .inl rfl, rfl⟩

theorem witness_FlagInstructions :
    (Instr.clv, Flag.v, false) ∈ [(Instr.sed, Flag.d, true), (.cli, .i, false), (.sei, .i, true),
      (.clt, .t, false), (.set, .t, true), (.clv, .v, false)] := by decide

/-- With and without an ADC or SBC with D = 1 directly before. -/
theorem witness_CarryAndDecimalFlags :
    sample.afterDecimal = false ∧ ({ sampleWith 0x08 with afterDecimal := true }).afterDecimal = true ∧
      ∃ t, exec (.adcImm 0x01) (sampleWith 0x08) = .next t ∧ t.afterDecimal = true :=
  ⟨rfl, rfl, _, rfl, rfl⟩

theorem witness_RelativeBranches :
    (Instr.bvs 0x80, sample.flag .v) ∈ [(Instr.bra 0x80, true), (.bcc 0x80, !sample.flag .c),
      (.bcs 0x80, sample.flag .c), (.bne 0x80, !sample.flag .z), (.beq 0x80, sample.flag .z),
      (.bpl 0x80, !sample.flag .n), (.bmi 0x80, sample.flag .n), (.bvc 0x80, !sample.flag .v),
      (.bvs 0x80, sample.flag .v)] := by decide

/-- A bit that is not stale, and a request bit stale by a store to its byte or to an address that reaches it. -/
theorem witness_BitBranches :
    (∃ v u, sample.read (zext16 0x3C) = .ok (v, u)) ∧ sample.staleRequestBit (zext16 0x3C) 3 = false ∧
      (∃ v u, ({ sample with lastWrites := [0x003C] }).read (zext16 0x3C) = .ok (v, u)) ∧
      ({ sample with lastWrites := [0x003C] }).staleRequestBit (zext16 0x3C) 3 = true ∧
      ({ sample with lastWrites := [0x003C] }).staleRequestBit (zext16 0x3C) 7 = false ∧
      ({ sample with lastWrites := [0x003E] }).staleRequestBit (zext16 0x3C) 3 = false ∧
      ({ sample with
        lines := [⟨{ timer with reachedFrom := [0x0040] }, true, false⟩]
        lastWrites := [0x0040] }).staleRequestBit (zext16 0x3C) 3 = true :=
  ⟨⟨_, _, rfl⟩, by decide, ⟨_, _, rfl⟩, by decide, by decide, by decide, by decide⟩

/-- The last address of a page but one, the last one, and a zero page pointer at FF. -/
theorem witness_JumpInstructions :
    lowByte 0xFFFE ≠ 0xFF ∧ sample.isPlain 0xFFFE ∧ sample.isPlain (0xFFFE + 1) ∧ lowByte 0xFFFF = 0xFF ∧
      sample.isPlain (zext16 0xFF) ∧ sample.isPlain (sample.nextZp 0xFF) :=
  ⟨by decide, .inl rfl, .inl rfl, by decide, .inl rfl, .inl rfl⟩

/-- S = 00: the second push wraps inside the stack page. -/
theorem witness_SubroutineCalls :
    sample.sp = 0x00 ∧ sample.canCall ∧ sample.isPlain (zext16 0xFF) ∧ sample.isPlain (sample.nextZp 0xFF) :=
  ⟨rfl, ⟨rfl, rfl⟩, .inl rfl, .inl rfl⟩

/-- A state whose registers, flags, PC, one byte of memory and one request bit a subroutine or handler has
changed. -/
def used (t : State) : State :=
  { t with
    a := 0x01, x := 0x02, y := 0x03, pc := 0x3000, ps := Status.ofByte 0xFF, mem := Memory.set t.mem 0x20 0x77
    lines := [⟨timer, false, false⟩] }

theorem used_kept {t : State} {as : List Addr} (h : t.lines.map Line.src = [timer])
    (ne : ∀ a ∈ as, a ≠ 0x20) : StackKept t (used t) as :=
  ⟨rfl, ⟨rfl, h.symm⟩, fun a ha =>
    (State.peek_setMem_set t 0x20 a 0x77).trans (if_neg (ne a ha))⟩

theorem stack_ne (p : Byte) : ¬sample.stackAt p = 32#16 := by
  intro h
  have h := congrArg BitVec.toNat h
  rw [show sample.stackAt p = joinBytes 0x01 p from rfl, joinBytes_toNat] at h
  simp at h
  omega

/-- The subroutine has changed A, X, Y, every flag, another byte of memory and a request bit. -/
theorem witness_SubroutineReturn :
    sample.isPlain (sample.stackAt (sample.sp + 1)) ∧ sample.isPlain (sample.stackAt (sample.sp + 2)) ∧
      sample.canCall ∧ (Instr.jsrAbs 0x2000).mnemonic = .jsr ∧
      ∃ t, exec (.jsrAbs 0x2000) sample = .next t ∧
        StackKept t (used t) [sample.stackAt sample.sp, sample.stackAt (sample.sp - 1)] := by
  obtain ⟨t, ht⟩ : ∃ t, jsrOp 3 (fun s => .ok (0x2000, s)) sample = .ok t := ⟨_, rfl⟩
  obtain ⟨u, hu, hv⟩ := Res.bind_ok.mp ht
  cases hv
  exact ⟨.inl rfl, .inl rfl, ⟨rfl, rfl⟩, rfl, _, finish_next.mpr ht,
    used_kept (State.pushWord_keeps hu).srcs (by simp [stack_ne])⟩

theorem witness_ReturnFromInterrupt :
    let s := { sample with sp := 0xFE }
    s.isPlain (s.stackAt (s.sp + 1)) ∧ s.isPlain (s.stackAt (s.sp + 2)) ∧ s.isPlain (s.stackAt (s.sp + 3)) :=
  ⟨.inl rfl, .inl rfl, .inl rfl⟩

/-- I = 0 with a source pending; I = 1 with none pending; I = 1 with a source pending. -/
theorem witness_BreakInstruction :
    (requested 0x00).canEnter (requested 0x00).cfg.brkVector ∧ (requested 0x00).flag .i = false ∧
      sample.canEnter sample.cfg.brkVector ∧ (∀ l ∈ sample.lines, l.pending = false) ∧
      (requested 0x04).canEnter (requested 0x04).cfg.brkVector ∧ (requested 0x04).flag .i = true ∧
      Accepts (requested 0x04).lines ⟨timer, true, true⟩ [⟨timer, false, true⟩] ∧
      (requested 0x04).canEnter timer.vector :=
  ⟨⟨rfl, rfl, rfl, .inl rfl, .inl rfl⟩, rfl, ⟨rfl, rfl, rfl, .inl rfl, .inl rfl⟩, by decide,
    ⟨rfl, rfl, rfl, .inl rfl, .inl rfl⟩, rfl, ⟨[], [], rfl, rfl, by simp, rfl⟩,
    rfl, rfl, rfl, .inl rfl, .inl rfl⟩

/-- The third clause where the three pushes store to the bytes of the enable and the request bit. -/
theorem witness_BreakInstruction_pushes :
    let s := { requested 0x04 with sp := 0x3E, cfg := { Config.typical with stackPage := .page0 } }
    s.flag .i = true ∧ s.lines = [] ++ ⟨timer, true, true⟩ :: [] ∧ s.stackAt s.sp = timer.enableAddr ∧
      s.stackAt (s.sp - 2) = timer.requestAddr ∧ ∃ t, exec .brk s = .next t := by
  refine ⟨rfl, rfl, rfl, rfl, ?_⟩
  obtain ⟨t, ht⟩ := State.softwareInterrupt_answers
    (s := ({ requested 0x04 with
      sp := 0x3E, cfg := { Config.typical with stackPage := .page0 } } : State).advance 2)
    (by intro a; unfold State.kindAt; split <;> exact ⟨nofun, nofun⟩)
  exact ⟨t, finish_next.mpr ht⟩

/-- A CPU that runs, directly after a store or not, and one that wakes from the wait state. -/
theorem witness_InterruptAcceptance :
    (requested 0x00).noReset ∧ (requested 0x00).run = .running ∧ (requested 0x00).flag .i = false ∧
      Accepts (requested 0x00).atBoundary.lines ⟨timer, true, true⟩ [⟨timer, false, true⟩] ∧
      (requested 0x00).atBoundary.canEnter timer.vector ∧
      ({ requested 0x00 with run := .waiting }).atBoundary.wakes = true ∧
      ({ requested 0x00 with lastWrites := [0x003C] }).atBoundary.canEnter timer.vector :=
  ⟨fun _ _ h => (by cases h), rfl, rfl, ⟨[], [], rfl, rfl, by simp, rfl⟩, ⟨rfl, rfl, rfl, .inl rfl, .inl rfl⟩,
    by decide, rfl, rfl, rfl, .inl rfl, .inl rfl⟩

theorem witness_ReturnUndoesEntry :
    sample.canEnter 0xFFF8 ∧ ∃ t, sample.enter 0xFFF8 false = .ok t ∧
      StackKept t (used t)
        [sample.stackAt sample.sp, sample.stackAt (sample.sp - 1), sample.stackAt (sample.sp - 2)] := by
  obtain ⟨t, ht⟩ : ∃ t, sample.enter 0xFFF8 false = .ok t := ⟨_, rfl⟩
  exact ⟨⟨rfl, rfl, rfl, .inl rfl, .inl rfl⟩, t, ht, used_kept (State.enter_keeps ht).srcs (by simp [stack_ne])⟩

/-- Time passes in the stop state; the wait state ends with the run; a wake with I = 1. -/
theorem witness_SleepAndWake :
    let stop := { requested 0x00 with run := .stopped, inputs := [.requests []] }
    let last := { requested 0x04 with run := .waiting }
    let woken := { requested 0x04 with
      run := .waiting, cfg := { Config.typical with wakeNeedsAccept := false } }
    stop.run ≠ .running ∧ stop.inputs = .requests [] :: [] ∧ stop.atBoundary.wakes = false ∧
      last.run ≠ .running ∧ last.inputs = [] ∧ last.wakes = false ∧
      woken.run ≠ .running ∧ woken.noReset ∧ woken.atBoundary.wakes = true :=
  ⟨by decide, rfl, by decide, by decide, rfl, by decide, by decide, fun _ _ h => (by cases h), by decide⟩

/-- The reset input gives the first source its bits and the second none. -/
theorem witness_ResetEvent :
    let s := { start with
      run := .stopped, inputs := [.reset anyReset], lines := [⟨timer, true, false⟩, ⟨timer, true, true⟩] }
    s.inputs = .reset anyReset :: [] ∧ s.lines[0]? = some ⟨timer, true, false⟩ ∧
      anyReset.bits[0]? = some (false, true) ∧ s.lines[1]? = some ⟨timer, true, true⟩ ∧
      anyReset.bits[1]? = none ∧
      Memory.get (Memory.ofCells anyReset.image) Config.typical.resetVector.toNat = some 0x00 ∧
      Memory.get (Memory.ofCells anyReset.image) (Config.typical.resetVector + 1).toNat = some 0xC0 :=
  ⟨rfl, rfl, rfl, rfl, rfl, by decide, by decide⟩

theorem witness_FlagEffectsTable :
    (∃ t, exec .inx sample = .next t) ∧ ¬(Instr.inx = .cld ∧ sample.afterDecimal = true) ∧
      Flag.c ∉ flagsWritten Instr.inx.mnemonic :=
  ⟨⟨_, rfl⟩, by decide, by decide⟩

theorem witness_RegisterWriters :
    (∃ t, exec (.mul 0xE0) sample = .next t) ∧ Reg.x ∉ regsWritten (.mul 0xE0) := ⟨⟨_, rfl⟩, by decide⟩

/-- With T = 0 LDA stores nothing; with T = 1 CMP stores nothing. -/
theorem witness_NonStoringInstructions :
    (∃ t, exec (.ldaImm 0x00) sample = .next t) ∧ storesNothing (.ldaImm 0x00) (sample.flag .t) = true ∧
      (∃ t, exec (.cmpImm 0x00) (sampleWith 0x20) = .next t) ∧
      storesNothing (.cmpImm 0x00) ((sampleWith 0x20).flag .t) = true :=
  ⟨⟨_, rfl⟩, rfl, ⟨_, rfl⟩, rfl⟩

theorem witness_EveryInstructionCompletes :
    start.implemented ∧ (Instr.jmpInd 0x14FE).wellFormed = true ∧ start.cfg.hasMulDiv = true :=
  ⟨fun _ => ⟨(by intro h; cases h), (by intro h; cases h)⟩, by decide, rfl⟩

theorem witness_ProductAndRomAreKept :
    (∃ t, step { requested 0x04 with cfg := { Config.typical with map := [⟨0x8000, 0x8000, .rom false⟩] } } =
      .next t) ∧ (requested 0x04).noReset ∧
      ({ requested 0x04 with cfg := { Config.typical with map := [⟨0x8000, 0x8000, .rom false⟩] } }).kindAt
        0x8000 = .rom false :=
  ⟨stepped_next (p := fun _ => true) (by decide), fun _ _ h => (by cases h), rfl⟩

/-- Directly after a decimal ADC, a store to an I/O location remembered, and CLD next. -/
def lateCarry : State :=
  { sampleWith 0x08 with afterDecimal := true, lastWrites := [0x003C], mem := [(0x1000, 0xD8)] }

theorem witness_InvariantKept : lateCarry.Inv ∧ ∃ t, step lateCarry = .next t := by
  refine ⟨⟨by decide, ?_, fun _ => by decide, ?_⟩, stepped_next (p := fun _ => true) (by decide)⟩
  · intro h; cases h
  · intro a h
    simp only [lateCarry, List.mem_singleton] at h
    subst h
    exact .inr (by decide)

/-- The last address just stored to, and the first one not. -/
theorem witness_FetchOfAByteJustStored :
    (0xFFFF : Addr) ∈ ({ sample with lastWrites := [0xFFFF] }).lastWrites ∧
      (0x0000 : Addr) ∉ ({ sample with lastWrites := [0xFFFF] }).lastWrites := by decide

/-- A hole at the address `a` and no byte but those of `sample` elsewhere; T = 1. -/
def hole (a : Addr) (k : RegionKind) : State :=
  { sampleWith 0x20 with cfg := { Config.typical with map := [⟨a.toNat, 1, k⟩] } }

/-- Each clause, at the first, an inner and the last address: a memory operand, M(X), a pull, a fetch. -/
theorem witness_UnimplementedReadStops :
    (hole 0xFFFF .unimplemented).kindAt 0xFFFF = .unimplemented ∧
      (Instr.tst 0x00).view = (.tst, .mem (.zp 0x00)) ∧
      (hole 0x0000 .unimplemented).ea (.zp 0x00) = .ok (0x0000, hole 0x0000 .unimplemented) ∧
      (hole 0x0000 .unimplemented).kindAt (zext16 0x00) = .unimplemented ∧
      (Instr.cmpImm 0x12).view = (.cmp, .ofSrc (.imm 0x12)) ∧ (hole 0x0030 .unimplemented).flag .t = true ∧
      (hole 0x0030 .unimplemented).mxAddr = 0x0030 ∧
      (∃ u, (hole 0x0030 .unimplemented).operand (.imm 0x12) = .ok (0x12, u)) ∧
      (let s := hole ((hole 0 .ram).stackAt 0x01) .unimplemented;
        s.kindAt (s.stackAt (s.sp + 1)) = .unimplemented) ∧
      (let s := { hole 0xFFFF .unimplemented with pc := 0xFFFF };
        s.executesNext ∧ s.pc ∉ s.lastWrites) :=
  ⟨rfl, rfl, rfl, rfl, rfl, rfl, rfl, ⟨_, rfl⟩, by decide,
    ⟨fun _ _ h => (by cases h), rfl, .inr (by decide)⟩, by decide⟩

/-- Each clause, for a hole and for ROM of which the platform says nothing: a store, a zero page byte, M(X), a
push. -/
theorem witness_UnwritableStoreStops :
    (hole 0xFFFF .unimplemented).kindAt 0xFFFF = .unimplemented ∧
      (hole 0xFFFF (.rom false)).kindAt 0xFFFF = .rom false ∧
      (Instr.staAbs 0xFFFF).view = (.sta, .mem (.abs 0xFFFF)) ∧
      (∃ u, (hole 0xFFFF (.rom false)).ea (.abs 0xFFFF) = .ok (0xFFFF, u)) ∧
      (hole 0x0000 (.rom false)).kindAt (zext16 0x00) = .rom false ∧
      (Instr.ldaImm 0x12).view = (.lda, .ofSrc (.imm 0x12)) ∧ (hole 0x0030 (.rom false)).flag .t = true ∧
      (hole 0x0030 (.rom false)).kindAt (hole 0x0030 (.rom false)).mxAddr = .rom false ∧
      (∃ u, (hole 0x0030 (.rom false)).operand (.imm 0x12) = .ok (0x12, u)) ∧
      (let s := hole (hole 0 .ram).stackAddr (.rom false);
        s.kindAt s.stackAddr = .rom false) :=
  ⟨rfl, rfl, rfl, ⟨_, rfl⟩, rfl, rfl, rfl, rfl, ⟨_, rfl⟩, by decide⟩

end Sys2Proof.Tests
end

section
/-!
PROOFS. The decoder gives back what the encoder writes, and a first byte's length is that of the
instruction it begins (R101, R102, R103).
-/

namespace Sys2Proof

/-- An instruction with a 16-bit operand: the two operand bytes are joined again (R101). -/
theorem decode_of_abs {op : Byte} {f : Addr → Instr} {c m : Byte}
    (h : opRow op = some ⟨c, m, .three fun ll hh => f (joinBytes hh ll)⟩) (hhll : Addr) (rest : List Byte) :
    decode (op :: lowByte hhll :: highByte hhll :: rest) = .ok (f hhll, rest) := by
  simp [decode, h, Build.apply]

/-- The row a bit-field operation code selects, by its low-order five bits: those rows stand first (R102). -/
theorem opRow_bitOp (i : BitNo) (k : BitVec 5) {r : OpRow}
    (h : opTableBits.find? (fun r => k.setWidth 8 == r.code) = some r) : opRow (bitOp i k) = some r := by
  have hmask : ∀ r ∈ opTableBits, (bitOp i k &&& r.mask == r.code) = (k.setWidth 8 == r.code) := by
    intro r hr
    have hm : r.mask = 0x1F := by
      simp only [opTableBits, List.mem_cons, List.not_mem_nil, or_false] at hr
      rcases hr with rfl | rfl | rfl | rfl | rfl | rfl | rfl | rfl <;> rfl
    rw [hm, bitOp_mask]
  have hbits : opTableBits.find? (fun r => bitOp i k &&& r.mask == r.code) = some r := by
    rw [← h]
    exact List.find?_congr hmask
  simp only [opRow, opTable, List.append_assoc]
  rw [List.find?_append, hbits, Option.some_or]

/-- A bit-field operation code decodes as its row says (R102). -/
theorem decode_of_bitOp {i : BitNo} {k : BitVec 5} {r : OpRow}
    (h : opTableBits.find? (fun r => k.setWidth 8 == r.code) = some r) (rest : List Byte) :
    decode (bitOp i k :: rest) = r.build.apply (bitOp i k) rest := by
  simp only [decode, opRow_bitOp i k h]

/-- Decoding an instruction's encoding gives it back, with the bytes after it left over (R101, R102). -/
theorem decode_encode (i : Instr) (rest : List Byte) : decode (encode i ++ rest) = .ok (i, rest) := by
  cases i with
  | adcAbs hhll | adcAbsY hhll | adcAbsX hhll | andAbs hhll | andAbsY hhll | andAbsX hhll | aslAbs hhll
  | aslAbsX hhll | bitAbs hhll | cmpAbs hhll | cmpAbsY hhll | cmpAbsX hhll | cpxAbs hhll | cpyAbs hhll
  | decAbs hhll | decAbsX hhll | eorAbs hhll | eorAbsY hhll | eorAbsX hhll | incAbs hhll | incAbsX hhll
  | jmpAbs hhll | jmpInd hhll | jsrAbs hhll | ldaAbs hhll | ldaAbsY hhll | ldaAbsX hhll | ldxAbs hhll
  | ldxAbsY hhll | ldyAbs hhll | ldyAbsX hhll | lsrAbs hhll | lsrAbsX hhll | oraAbs hhll | oraAbsY hhll
  | oraAbsX hhll | rolAbs hhll | rolAbsX hhll | rorAbs hhll | rorAbsX hhll | sbcAbs hhll | sbcAbsY hhll
  | sbcAbsX hhll | staAbs hhll | staAbsY hhll | staAbsX hhll | stxAbs hhll | styAbs hhll =>
    exact decode_of_abs rfl hhll rest
  | bbcAcc i _ | bbcZp i _ _ | bbsAcc i _ | bbsZp i _ _ | clbAcc i | clbZp i _ | sebAcc i | sebZp i _ =>
    exact (decode_of_bitOp rfl _).trans (by simp [Build.apply])
  | _ => rfl

/-- A row that makes an instruction of the bytes after the operation code and leaves none over reads as many as
its length says. -/
theorem Build.len_of_apply {b : Build} {op : Byte} {bs : List Byte} {i : Instr}
    (h : b.apply op bs = .ok (i, [])) : b.len = bs.length + 1 := by
  unfold Build.apply at h
  split at h <;> cases h <;> rfl

/-- The operation code of an instruction tells how many bytes it has (R103). -/
theorem opLength_of_decode {op : Byte} {bs : List Byte} {i : Instr} (h : decode (op :: bs) = .ok (i, [])) :
    opLength op = some (bs.length + 1) := by
  unfold decode at h
  dsimp only at h
  split at h
  · cases h
  · rename_i r hr
    simp [opLength, hr, Build.len_of_apply h]

/-- The encoding of an instruction: an operation code, and after it the bytes its length counts (R100, R103). -/
theorem encode_cons (i : Instr) :
    ∃ op bs, encode i = op :: bs ∧ decode (op :: bs) = .ok (i, []) ∧ opLength op = some (bs.length + 1) := by
  have h := decode_encode i []
  rw [List.append_nil] at h
  cases he : encode i with
  | nil => rw [he] at h; cases h
  | cons op bs =>
    rw [he] at h
    exact ⟨op, bs, rfl, h, opLength_of_decode h⟩

end Sys2Proof
end

section
/-!
PROOFS. The fetch of an instruction whose bytes are at PC, and what a boundary where no reset comes does
(R34, R73, R312, R313).
-/

namespace Sys2Proof.Machine

/-! ### The fetch -/

/-- A byte the fetch holds is fetched as it stands, with no effect (R87). -/
theorem State.fetchByte_of_holds {s : State} {a : Addr} {v : Byte} (h : s.fetchHolds a v) :
    s.fetchByte a = .ok (v, s) := by
  obtain ⟨hplain, hfresh, rfl⟩ := h
  have : s.lastWrites.contains a = false := by simpa using hfresh
  unfold State.fetchByte
  rw [this]
  exact State.read_plain hplain

/-- The fetch holds these bytes at ascending addresses from `a` on (R73). -/
def State.fetchHoldsAll (s : State) (a : Addr) (bs : List Byte) : Prop :=
  ∀ k v, bs[k]? = some v → s.fetchHolds (a + BitVec.ofNat 16 k) v

theorem State.fetchHoldsAll_cons {s : State} {a : Addr} {b : Byte} {bs : List Byte}
    (h : s.fetchHoldsAll a (b :: bs)) : s.fetchHolds a b ∧ s.fetchHoldsAll (a + 1) bs := by
  refine ⟨by simpa using h 0 b rfl, fun k v hk => ?_⟩
  have haddr : a + 1 + BitVec.ofNat 16 k = a + BitVec.ofNat 16 (k + 1) := by
    rw [BitVec.add_assoc, Nat.add_comm k 1, BitVec.ofNat_add]
    rfl
  rw [haddr]
  exact h (k + 1) v hk

/-- Bytes the fetch holds at ascending addresses are fetched as they stand, with no effect (R73, R87). -/
theorem State.fetchBytes_of_holds {s : State} {a : Addr} {bs : List Byte} (h : s.fetchHoldsAll a bs) :
    State.fetchBytes bs.length a s = .ok (bs, s) := by
  induction bs generalizing a with
  | nil => rfl
  | cons b bs ih =>
    obtain ⟨hb, hbs⟩ := State.fetchHoldsAll_cons h
    rw [List.length_cons, State.fetchBytes, Res.bind_of_ok (State.fetchByte_of_holds hb)]
    dsimp only
    rw [Res.bind_of_ok (ih hbs)]
    rfl

/-- The lengths of operation codes on this product: a code is undefined here and not in the table only where it is
that of MUL or DIV and the product has neither (R113). -/
theorem State.opLength_cases (s : State) (op : Byte) :
    s.opLength op = Sys2Proof.opLength op ∨
      (s.cfg.hasMulDiv = false ∧ (op = 0x62 ∨ op = 0xE2) ∧ s.opLength op = none) := by
  unfold State.opLength
  split
  · rename_i h
    simp only [Bool.and_eq_true, Bool.not_eq_true', Bool.or_eq_true, beq_iff_eq] at h
    exact .inr ⟨h.1, h.2, rfl⟩
  · exact .inl rfl

/-- MUL and DIV stop the model on a product without them, with the operation code as the fetch does (R113). -/
theorem exec_of_absent {s : State} {op : Byte} {bs : List Byte} {i : Instr}
    (habsent : s.cfg.hasMulDiv = false) (hop : op = 0x62 ∨ op = 0xE2)
    (hdecode : decode (op :: bs) = .ok (i, [])) : exec i s = .fault (.undefinedOpcode op) := by
  rcases hop with rfl | rfl <;> cases bs with
  | nil => cases hdecode
  | cons zz bs =>
    cases hdecode
    simp [exec, execMul, mulOp, execDiv, divOp, habsent, finish]

/-- Where PC holds the bytes of an instruction, they are fetched, and nothing changes; MUL and DIV on a product
without them stop at the operation code, as their execution does (R73, R103, R113). -/
theorem State.fetch_of_holds {s : State} {i : Instr} (h : s.fetchHoldsAll s.pc (encode i)) :
    s.fetch = .ok (i, s) ∨ ∃ f, s.fetch = .error f ∧ exec i s = .fault f := by
  obtain ⟨op, bs, hencode, hdecode, hlen⟩ := encode_cons i
  rw [hencode] at h
  obtain ⟨hop, hbs⟩ := State.fetchHoldsAll_cons h
  unfold State.fetch
  rw [Res.bind_of_ok (State.fetchByte_of_holds hop)]
  dsimp only
  rcases s.opLength_cases op with hdefined | ⟨habsent, hcode, hnone⟩
  · left
    rw [hdefined, hlen]
    dsimp only
    rw [Nat.add_sub_cancel, Res.bind_of_ok (State.fetchBytes_of_holds hbs)]
    simp only [hdecode]
    rfl
  · right
    rw [hnone]
    exact ⟨_, rfl, exec_of_absent habsent hcode hdecode⟩

/-! ### The boundary -/

/-- The platform's requests change nothing but the request bits and what is left of the inputs (R310). -/
theorem raiseFrom_srcs (ks : List Nat) (n : Nat) (ls : List Line) :
    (raiseFrom ks n ls).map Line.src = ls.map Line.src := by
  induction ls generalizing n with
  | nil => rfl
  | cons l ls ih => simp [raiseFrom, ih]

/-- What the platform's requests leave: all but the request bits and the inputs. -/
theorem State.atBoundary_eq (s : State) :
    ∃ is ls, s.atBoundary = (s.setInputs is).setLines ls ∧ ls.map Line.src = s.lines.map Line.src := by
  unfold State.atBoundary
  split
  · exact ⟨_, _, rfl, raiseFrom_srcs _ _ _⟩
  · exact ⟨s.inputs, s.lines, rfl, rfl⟩

@[simp] theorem State.atBoundary_pc (s : State) : s.atBoundary.pc = s.pc := by
  obtain ⟨is, ls, h, -⟩ := s.atBoundary_eq; rw [h]; rfl

@[simp] theorem State.atBoundary_run (s : State) : s.atBoundary.run = s.run := by
  obtain ⟨is, ls, h, -⟩ := s.atBoundary_eq; rw [h]; rfl

@[simp] theorem State.atBoundary_cfg (s : State) : s.atBoundary.cfg = s.cfg := by
  obtain ⟨is, ls, h, -⟩ := s.atBoundary_eq; rw [h]; rfl

@[simp] theorem State.atBoundary_srcs (s : State) :
    s.atBoundary.lines.map Line.src = s.lines.map Line.src := by
  obtain ⟨is, ls, h, hsrc⟩ := s.atBoundary_eq; rw [h]; exact hsrc

@[simp] theorem State.atBoundary_flag (s : State) (f : Flag) : s.atBoundary.flag f = s.flag f := by
  obtain ⟨is, ls, h, -⟩ := s.atBoundary_eq; rw [h]; rfl

@[simp] theorem State.atBoundary_peek (s : State) (a : Addr) : s.atBoundary.peek a = s.peek a := by
  obtain ⟨is, ls, h, -⟩ := s.atBoundary_eq; rw [h]; rfl

@[simp] theorem State.atBoundary_kindAt (s : State) (a : Addr) : s.atBoundary.kindAt a = s.kindAt a :=
  State.kindAt_congr s.atBoundary_cfg s.atBoundary_srcs a

/-- Where no reset comes, a step's turn is the boundary after the platform's requests (R312). -/
theorem State.turn_of_noReset {s : State} (h : s.noReset) : ∃ more, s.turn = s.atBoundary.boundary more := by
  cases hin : s.inputs with
  | nil => exact ⟨false, by simp only [State.turn, State.atBoundary, hin]⟩
  | cons input rest =>
    cases input with
    | reset v => exact absurd hin (h v rest)
    | requests ks => exact ⟨true, by simp only [State.turn, State.atBoundary, hin]⟩

/-- A boundary in the run state `running` goes on as it stands (R312). -/
theorem State.boundary_of_running {s : State} (h : s.run = .running) (more : Bool) :
    s.boundary more = s.proceed := by
  have hrun : s.setRun .running = s := by rw [← h]; rfl
  simp [State.boundary, h, hrun]

/-- Where I is 1 or no source is pending, no interrupt is accepted (R312). -/
theorem State.acceptable_none {s : State} (h : s.flag .i = true ∨ ∀ l ∈ s.lines, l.pending = false) :
    s.acceptable = none := by
  unfold State.acceptable
  rcases h with h | h
  · rw [h]; rfl
  · have : s.firstPending = none := List.find?_eq_none.mpr fun l hl => by simp [h l hl]
    rw [this]
    split <;> rfl

/-- Where a step executes an instruction, its turn is the boundary's, and no interrupt is accepted (R312). -/
theorem State.turn_of_executesNext {s : State} (h : s.executesNext) :
    s.turn = s.atBoundary.proceed ∧ s.atBoundary.acceptable = none := by
  obtain ⟨hnoReset, hrun, hmasked⟩ := h
  obtain ⟨more, hturn⟩ := State.turn_of_noReset hnoReset
  rw [hturn]
  exact ⟨State.boundary_of_running (by simpa using hrun) more, State.acceptable_none (by simpa using hmasked)⟩

/-- A step that fetches an instruction runs it in the state after the fetch (R312). -/
theorem step_of_fetch {s t : State} {i : Instr} (h : s.executesNext) (hfetch : s.atBoundary.fetch = .ok (i, t)) :
    step s = exec i t := by
  obtain ⟨hturn, hnone⟩ := State.turn_of_executesNext h
  simp only [step, hturn, State.proceed, hnone, hfetch]

/-- A step whose fetch stops ends there (R112). -/
theorem step_of_fetch_stops {s : State} {f : Fault} (h : s.executesNext) (hfetch : s.atBoundary.fetch = .error f) :
    step s = .fault f := by
  obtain ⟨hturn, hnone⟩ := State.turn_of_executesNext h
  simp only [step, hturn, State.proceed, hnone, hfetch]

/-- Settles O5: the fetch only draws; where PC holds the bytes of `i` it answers `i`, or stops as `i` does. -/
theorem stepRunsTheInstruction : Obligations.StepRunsTheInstruction := by
  intro s i h
  refine ⟨fun t hfetch => ⟨step_of_fetch h hfetch, State.fetch_onlyDraws hfetch⟩, fun hbytes => ?_⟩
  rw [← State.atBoundary_pc] at hbytes
  rcases State.fetch_of_holds hbytes with hfetch | ⟨f, hfetch, hexec⟩
  · exact step_of_fetch h hfetch
  · rw [step_of_fetch_stops h hfetch, hexec]

end Sys2Proof.Machine
end

section
/-!
PROOFS. What a store has done and what it leaves, in the terms of the statements; the stack operations; the
state after reset (R37, R38, R53, R71, R80).
-/

namespace Sys2Proof.Machine

/-! ### A store, a read and the frame -/

/-- A store that completes has stored its byte (R71). -/
theorem State.write_stores {s t : State} {a : Addr} {v : Byte} (h : s.write a v = .ok t) : Stores s t a v := by
  rcases State.write_ok h with ⟨hk, rfl⟩ | ⟨hk, rfl⟩ | ⟨hk, rfl⟩
  · refine ⟨fun _ => ?_, fun hio => ?_, fun _ => List.mem_cons_self⟩
    · rw [State.setLastWrites_peek, State.peek_setMem_set, if_pos rfl]
    · rw [hk] at hio; cases hio
  · refine ⟨fun hram => ?_, fun _ => ⟨s.draws, rfl⟩, fun _ => List.mem_cons_self⟩
    rw [State.isRam, hk] at hram; cases hram
  · simp [Stores, State.isRam, hk]

/-- A store changes no register, no flag and no other byte, and no request or enable bit that it does not reach
(R71, R310). -/
theorem State.write_leaves {s t : State} {a : Addr} {v : Byte} (h : s.write a v = .ok t) :
    Leaves s t [] [] [a] := by
  rcases State.write_ok h with ⟨_, rfl⟩ | ⟨_, rfl⟩ | ⟨_, rfl⟩
  · refine ⟨fun r _ => by cases r <;> rfl, fun _ _ => rfl, fun b hb => ?_, fun _ => rfl, rfl, rfl, rfl⟩
    rw [State.setLastWrites_peek, State.peek_setMem_set, if_neg (by simpa using hb)]
  · refine ⟨fun r _ => by cases r <;> rfl, fun _ _ => rfl, fun _ _ => rfl, fun hl => ?_, rfl, rfl, rfl⟩
    have hsame : ∀ l ∈ s.lines, l.stored s.draws a v = id l := fun l hmem =>
      Line.stored_of_not_reached (hl l hmem a (by simp)) s.draws v
    exact (List.map_congr_left hsame).trans (List.map_id _)
  · exact ⟨fun _ _ => rfl, fun _ _ => rfl, fun _ _ => rfl, fun _ => rfl, rfl, rfl, rfl⟩

/-- Drawing free values changes nothing that a frame speaks of. -/
theorem Leaves.draw {s t : State} {R : List Reg} {F : List Flag} {as : List Addr} (h : Leaves s t R F as)
    (k : Nat) : Leaves s (t.draw k) R F as := by
  obtain ⟨hregs, hrest⟩ := h
  exact ⟨fun r hr => (by cases r <;> rfl : (t.draw k).reg r = t.reg r).trans (hregs r hr), hrest⟩

/-- Setting S changes S alone. -/
theorem Leaves.setSp {s t : State} {R : List Reg} {F : List Flag} {as : List Addr} (h : Leaves s t R F as)
    (v : Byte) : Leaves s (t.setSp v) (.sp :: R) F as := by
  obtain ⟨hregs, hrest⟩ := h
  refine ⟨fun r hr => ?_, hrest⟩
  obtain ⟨hsp, hr⟩ : r ≠ .sp ∧ r ∉ R := by simpa using hr
  rw [← hregs r hr]
  cases r with
  | sp => exact absurd rfl hsp
  | _ => rfl

/-- S is no part of what a store does (R71). -/
theorem Stores.setSp {s t : State} {a : Addr} {b : Byte} (h : Stores s t a b) (v : Byte) :
    Stores s (t.setSp v) a b := h

/-- Nothing differs between a state and itself. -/
theorem Leaves.refl (s : State) : Leaves s s [] [] [] :=
  ⟨fun _ _ => rfl, fun _ _ => rfl, fun _ _ => rfl, fun _ => rfl, rfl, rfl, rfl⟩

/-! ### Push and pull -/

/-- A push onto a stack that can be written stores at the stack address and decrements S (R37). -/
theorem State.push_stores {s : State} (v : Byte) (h : s.writable s.stackAddr) :
    ∃ t, s.push v = .ok t ∧ Stores s t (s.stackAt s.sp) v ∧ t.sp = s.sp - 1 ∧
      Leaves s t [.sp] [] [s.stackAt s.sp] := by
  obtain ⟨m, l, w, k, hw, -⟩ := State.write_completes v h
  exact ⟨_, State.push_ok.mpr ⟨_, hw, rfl⟩, (State.write_stores hw).setSp _, rfl, (State.write_leaves hw).setSp _⟩

/-- A pull increments S and then reads at the stack address (R38). -/
theorem State.pull_reads {s u : State} {v : Byte} (h : s.read (s.stackAt (s.sp + 1)) = .ok (v, u)) :
    ∃ t, s.pull = .ok (v, t) ∧ t.sp = s.sp + 1 ∧ Leaves s t [.sp] [] [] := by
  obtain ⟨k, -, hread⟩ := (SameView.setSp s (s.sp + 1)).read h
  exact ⟨_, hread, rfl, ((Leaves.refl s).setSp _).draw k⟩

/-- A byte pushed onto plain memory is pulled back, and S is as before (R37, R38). -/
theorem State.pull_push {s t : State} {v : Byte} (hram : s.isRam s.stackAddr) (h : s.push v = .ok t) :
    ∃ u, t.pull = .ok (v, u) ∧ u.sp = s.sp := by
  obtain ⟨w, hw, rfl⟩ := State.push_ok.mp h
  obtain ⟨hstored, -⟩ := State.write_stores hw
  have hkeeps := State.write_keeps hw
  obtain ⟨hregs, -⟩ := State.write_leaves hw
  have hsp : w.sp = s.sp := hregs .sp (by simp)
  have haddr : w.stackAt (w.sp - 1 + 1) = s.stackAddr := by
    rw [BitVec.sub_add_cancel, hsp, State.stackAt, hkeeps.cfg]; rfl
  have hread : w.read (w.stackAt (w.sp - 1 + 1)) = .ok (v, w) := by
    rw [haddr, State.read_plain (.inl ((hkeeps.kinds _).trans hram)), hstored hram]
  obtain ⟨j, -, hread'⟩ := (SameView.setSp w (w.sp - 1)).read hread
  obtain ⟨u, hpull, husp, -⟩ := State.pull_reads (s := w.setSp (w.sp - 1)) hread'
  refine ⟨u, hpull, ?_⟩
  rw [husp, State.setSp_sp, BitVec.sub_add_cancel, hsp]

/-- Settles O8: what a push stores, what a pull reads, and that the second undoes the first. -/
theorem pushAndPull : Obligations.PushAndPull :=
  ⟨fun _ v h => State.push_stores v h, fun _ _ _ h => State.pull_reads h, fun _ _ _ h => State.pull_push h⟩

/-! ### Reset -/

/-- Settles O49: with I = 1 nothing is accepted, and the invariant holds of an empty memory, of the run state
`running` and of no store remembered. -/
theorem resetState : Obligations.ResetState :=
  have hi : State.reset.flag .i = true := rfl
  ⟨hi, rfl, State.acceptable_none (.inl hi),
    State.reset_mem_wf, fun h => (by cases h), fun h => (by cases h), fun _ h => (by cases h)⟩

end Sys2Proof.Machine
end

section
/-!
PROOFS. What each operation of an instruction changes: the registers, the flags, whether it stores, and the
decimal hazard it leaves (R31 to R33, R47, R74, R350).
-/

namespace Sys2Proof.Machine

variable {s t u : State} {R : List Reg} {F : List Flag} {b late : Bool}

/-! ### Shared parts -/

/-- A read-modify-write stores where it works on memory (R74, R151). -/
def locStores : Loc → Bool
  | .acc => false
  | .mem _ => true

/-- The course of an instruction up to its operand (R151). -/
theorem operand_changes {n : Nat} {o : Src} {v : Byte} (h : (s.advance n).operand o = .ok (v, t)) :
    Changes s t [] [] false false :=
  (Changes.advance s n).onlyDraws (State.operand_onlyDraws h)

theorem Changes.setNVZC (h : Changes s t R F b late) (q : AluResult) :
    Changes s (t.setNVZC q) R (.c :: .z :: .v :: .n :: F) b late :=
  (((h.setFlag _ _).setFlag _ _).setFlag _ _).setFlag _ _

theorem Changes.setCompare (h : Changes s t R F b late) (p q : Byte) :
    Changes s (t.setCompare p q) R (.c :: .z :: .n :: F) b late :=
  (h.setNZ _).setFlag _ _

theorem Changes.setShift (h : Changes s t R F b late) (c : Bool) (r : Byte) :
    Changes s (t.setShift c r) R (.z :: .n :: .c :: F) b late :=
  (h.setFlag _ _).setNZ _

theorem Changes.branchIf (h : Changes s t R F b late) (c : Bool) (rr : Byte) :
    Changes s (t.branchIf c rr) R F b late :=
  h.setPc _

/-- A flag list in another order. -/
theorem Changes.reorder {F' : List Flag} (h : Changes s t R F b late) (hF : F ⊆ F') : Changes s t R F' b late :=
  h.weaken (fun _ hr => hr) hF id

/-- A read-modify-write changes A or stores, and changes the flags `g` changes (R151). -/
theorem modify_changes {n : Nat} {l : Loc} {f : Byte → Byte} {g : State → Byte → Byte → State}
    (hg : ∀ {u R b} (v r : Byte), Changes s u R [] b false → Changes s (g u v r) R F b false)
    (h : (s.advance n).modify l f g = .ok t) : Changes s t (locRegs l) F (locStores l) false := by
  cases l with
  | acc =>
    cases h
    exact hg _ _ ((Changes.advance s n).setA _)
  | mem m =>
    obtain ⟨a, s1, v, s2, s3, hea, hread, hwrite, rfl⟩ := State.modify_mem_ok h
    exact hg _ _ ((((Changes.advance s n).onlyDraws (State.ea_onlyDraws hea)).onlyDraws
      (State.read_onlyDraws hread)).write hwrite)

/-- A read of the operand and of the destination, whose result goes back to the destination (R152). -/
theorem destOperation_changes {n k : Nat} {o : Src} {v1 v2 r : Byte} {s1 s2 : State}
    (hoperand : (s.advance n).operand o = .ok (v2, s1)) (hread : s1.destRead = .ok (v1, s2))
    (hwrite : (s2.draw k).destWrite r = .ok t) : Changes s t [.a] [] (s.flag .t) false := by
  have h := ((operand_changes hoperand).onlyDraws (State.destRead_onlyDraws hread)).draw k
  exact h.destWrite hwrite (h.flags .t (by simp))

/-! ### Arithmetic -/

/-- ADC and SBC (R194, R195). -/
theorem addSubOp_changes {bin : Byte → Byte → Bool → AluResult} {dec : Nat → Byte → Byte → Bool → AluResult}
    {o : Src} (h : addSubOp bin dec o s = .ok t) :
    Changes s t [.a] [.n, .v, .z, .c] (s.flag .t) (s.flag .d) := by
  obtain ⟨⟨v2, s1⟩, hoperand, h⟩ := Res.bind_ok.mp h
  obtain ⟨⟨v1, s2⟩, hread, h⟩ := Res.bind_ok.mp h
  obtain ⟨s3, hwrite, h⟩ := Res.bind_ok.mp h
  cases h
  have h3 := destOperation_changes hoperand hread hwrite
  rw [h3.flags .d (by simp)]
  exact ((h3.setNVZC _).setAfterDecimal _).reorder (by decide)

/-- INC, DEC and COM: N and Z of the new value (R196, R197, R213). -/
theorem modify_setNZ_changes {n : Nat} {l : Loc} {f : Byte → Byte}
    (h : (s.advance n).modify l f (fun s _ r => s.setNZ r) = .ok t) :
    Changes s t (locRegs l) [.n, .z] (locStores l) false :=
  modify_changes (fun _ r h => (h.setNZ r).reorder (by decide)) h

/-- The register transfers, and X or Y counted up or down (R168 to R172, R198 to R201). -/
theorem registerOp_changes {put : State → Byte → State} {r : Reg}
    (hput : ∀ {u : State} (v : Byte), Changes s u [] [] false false → Changes s (put u v) [r] [] false false)
    (v : Byte) : Changes s (registerOp put v s) [r] [.n, .z] false false :=
  ((hput v (Changes.advance s 1)).setNZ v).reorder (by decide)

/-- MUL (R202). -/
theorem mulOp_changes {zz : Byte} (h : mulOp zz s = .ok t) : Changes s t [.a, .sp] [] true false := by
  unfold mulOp at h
  split at h
  · obtain ⟨⟨m, s1⟩, hread, h⟩ := Res.bind_ok.mp h
    obtain ⟨s2, hpush, h⟩ := Res.bind_ok.mp h
    cases h
    exact (((Changes.advance s 2).onlyDraws (State.read_onlyDraws hread)).push hpush).setA _
  · cases h

/-- DIV (R203). -/
theorem divOp_changes {zz : Byte} (h : divOp zz s = .ok t) : Changes s t [.a, .sp] [] true false := by
  unfold divOp at h
  split at h
  · obtain ⟨⟨n, s1⟩, hread, h⟩ := Res.bind_ok.mp h
    obtain ⟨s2, hpush, h⟩ := Res.bind_ok.mp h
    cases h
    exact ((((Changes.advance s 2).onlyDraws (State.zpPointer_onlyDraws hread)).draw _).push hpush).setA _
  · cases h

/-! ### Bits and flags -/

/-- CLB and SEB on a zero page byte, and RRF: no flag (R223, R240, R241). -/
theorem modify_noFlag_changes {n : Nat} {l : Loc} {f : Byte → Byte}
    (h : (s.advance n).modify l f (fun s _ _ => s) = .ok t) :
    Changes s t (locRegs l) [] (locStores l) false :=
  modify_changes (fun _ _ h => h) h

/-- An instruction that sets or clears one flag (R242 to R250). -/
theorem flagOp_changes (f : Flag) (b : Bool) (s : State) : Changes s (flagOp f b s) [] [f] false false :=
  (Changes.advance s 1).setFlag f b

/-- CLC and SEC, with and without the hazard of R350 (R242, R243, R357). -/
theorem carryOp_changes (b : Bool) (s : State) : Changes s (carryOp b s) [] [.c] false false := by
  unfold carryOp
  split
  · exact ((Changes.advance s 1).draw 1).setFlag .c _
  · exact flagOp_changes .c b s

/-- CLD: C changes only in the hazard of R350 (R244, R357). -/
theorem cldOp_changes (s : State) :
    Changes s (cldOp s) [] (if s.afterDecimal then [.c, .d] else [.d]) false false := by
  unfold cldOp
  split
  · exact (((Changes.advance s 1).draw 2).setFlag .d _).setFlag .c _
  · exact flagOp_changes .d false s

/-! ### Data transfer -/

/-- LDA (R161). -/
theorem ldaOp_changes {o : Src} (h : ldaOp o s = .ok t) : Changes s t [.a] [.n, .z] (s.flag .t) false := by
  obtain ⟨⟨v, s1⟩, hoperand, h⟩ := Res.bind_ok.mp h
  obtain ⟨s2, hwrite, h⟩ := Res.bind_ok.mp h
  cases h
  have h1 := operand_changes hoperand
  exact ((h1.destWrite hwrite (h1.flags .t (by simp))).setNZ v).reorder (by decide)

/-- LDX and LDY (R163, R164). -/
theorem loadOp_changes {put : State → Byte → State} {r : Reg} {o : Src}
    (hput : ∀ {u : State} (v : Byte), Changes s u [] [] false false → Changes s (put u v) [r] [] false false)
    (h : loadOp put o s = .ok t) : Changes s t [r] [.n, .z] false false := by
  obtain ⟨⟨v, s1⟩, hoperand, h⟩ := Res.bind_ok.mp h
  cases h
  exact ((hput v (operand_changes hoperand)).setNZ v).reorder (by decide)

/-- STA, STX and STY (R165 to R167). -/
theorem storeOp_changes {get : State → Byte} {m : MemMode} (h : storeOp get m s = .ok t) :
    Changes s t [] [] true false := by
  obtain ⟨⟨a, s1⟩, hea, h⟩ := Res.bind_ok.mp h
  exact ((Changes.advance s _).onlyDraws (State.ea_onlyDraws hea)).write h

/-- PLA (R176). -/
theorem plaOp_changes (h : plaOp s = .ok t) : Changes s t [.a, .sp] [.n, .z] false false := by
  obtain ⟨⟨v, s1⟩, hpull, h⟩ := Res.bind_ok.mp h
  cases h
  exact ((((Changes.advance s 1).pull hpull).setA v).setNZ v).reorder (by decide)

/-- PLP (R177). -/
theorem plpOp_changes (h : plpOp s = .ok t) :
    Changes s t [.sp] [.c, .z, .i, .d, .b, .t, .v, .n] false false := by
  obtain ⟨⟨v, s1⟩, hpull, h⟩ := Res.bind_ok.mp h
  cases h
  exact ((Changes.advance s 1).pull hpull).setPs _

/-! ### Jumps, branches and returns -/

/-- `JMP ($hhll)` (R142, R260). -/
theorem jmpIndOp_changes {p : Addr} (h : jmpIndOp p s = .ok t) : Changes s t [] [] false false := by
  unfold jmpIndOp at h
  split at h
  · cases h
  · obtain ⟨⟨target, s1⟩, hread, h⟩ := Res.bind_ok.mp h
    cases h
    exact ((Changes.advance s 3).onlyDraws (State.absPointer_onlyDraws hread)).setPc target

/-- `JMP ($zz)` (R143, R260). -/
theorem jmpZpIndOp_changes {zz : Byte} (h : jmpZpIndOp zz s = .ok t) : Changes s t [] [] false false := by
  obtain ⟨⟨target, s1⟩, hread, h⟩ := Res.bind_ok.mp h
  cases h
  exact ((Changes.advance s 2).onlyDraws (State.zpPointer_onlyDraws hread)).setPc target

/-- The relative branches of two bytes (R261, R265 to R272). -/
theorem branchOp_changes (cond : Bool) (rr : Byte) (s : State) :
    Changes s (branchOp cond rr s) [] [] false false :=
  (Changes.advance s 2).branchIf cond rr

/-- BBC and BBS on A (R263, R264). -/
theorem bitBranchAccOp_changes (b : Bool) (i : BitNo) (rr : Byte) (s : State) :
    Changes s (bitBranchAccOp b i rr s) [] [] false false :=
  (Changes.advance s 2).branchIf _ rr

/-- BBC and BBS on a zero page byte, with and without the hazard of R352 (R263, R264, R357). -/
theorem bitBranchZpOp_changes {b : Bool} {i : BitNo} {zz rr : Byte} (h : bitBranchZpOp b i zz rr s = .ok t) :
    Changes s t [] [] false false := by
  obtain ⟨⟨v, s1⟩, hread, h⟩ := Res.bind_ok.mp h
  have h1 := (Changes.advance s 3).onlyDraws (State.read_onlyDraws hread)
  dsimp only at h
  split at h <;> cases h
  · exact (h1.draw 1).branchIf _ rr
  · exact h1.branchIf _ rr

/-- JSR, its destination found by reads only (R262). -/
theorem jsrOp_changes {n : Nat} {target : State → Res (Addr × State)}
    (htarget : ∀ {u w : State} {v : Addr}, target u = .ok (v, w) → OnlyDraws u w)
    (h : jsrOp n target s = .ok t) : Changes s t [.sp] [] true false := by
  obtain ⟨s1, hpush, h⟩ := Res.bind_ok.mp h
  obtain ⟨⟨p, s2⟩, hread, h⟩ := Res.bind_ok.mp h
  cases h
  exact (((Changes.advance s n).pushWord hpush).onlyDraws (htarget hread)).setPc p

/-- RTS (R274). -/
theorem rtsOp_changes (h : rtsOp s = .ok t) : Changes s t [.sp] [] false false := by
  obtain ⟨⟨target, s1⟩, hpull, h⟩ := Res.bind_ok.mp h
  cases h
  exact ((Changes.advance s 1).pullWord hpull).setPc _

/-- RTI (R273, R324). -/
theorem rti_changes (h : (s.advance 1).returnFromInterrupt = .ok t) :
    Changes s t [.sp] [.c, .z, .i, .d, .b, .t, .v, .n] false false := by
  obtain ⟨⟨p, s1⟩, hpull, h⟩ := Res.bind_ok.mp h
  obtain ⟨⟨target, s2⟩, hpull', h⟩ := Res.bind_ok.mp h
  cases h
  exact (((((Changes.advance s 1).pull hpull).setPs _).pullWord hpull').setPc _).weaken (by simp)
    (fun _ hf => hf) id

/-! ### Logic, compare, shift and rotate -/

/-- AND, ORA and EOR (R210 to R212). -/
theorem logicOp_changes {f : Byte → Byte → Byte} {o : Src} (h : logicOp f o s = .ok t) :
    Changes s t [.a] [.n, .z] (s.flag .t) false := by
  obtain ⟨⟨v2, s1⟩, hoperand, h⟩ := Res.bind_ok.mp h
  obtain ⟨⟨v1, s2⟩, hread, h⟩ := Res.bind_ok.mp h
  obtain ⟨s3, hwrite, h⟩ := Res.bind_ok.mp h
  cases h
  exact ((destOperation_changes (k := 0) hoperand hread hwrite).setNZ _).reorder (by decide)

/-- BIT (R214). -/
theorem bitTestOp_changes {m : MemMode} (h : bitTestOp m s = .ok t) :
    Changes s t [] [.n, .v, .z] false false := by
  obtain ⟨⟨v, s1⟩, hoperand, h⟩ := Res.bind_ok.mp h
  cases h
  exact ((((operand_changes hoperand).setFlag _ _).setFlag _ _).setFlag _ _).reorder (by decide)

/-- TST (R215). -/
theorem tstOp_changes {zz : Byte} (h : tstOp zz s = .ok t) : Changes s t [] [.n, .z] false false := by
  obtain ⟨⟨v, s1⟩, hread, h⟩ := Res.bind_ok.mp h
  cases h
  exact (((Changes.advance s 2).onlyDraws (State.read_onlyDraws hread)).setNZ v).reorder (by decide)

/-- CMP (R216). -/
theorem cmpOp_changes {o : Src} (h : cmpOp o s = .ok t) : Changes s t [] [.n, .z, .c] false false := by
  obtain ⟨⟨v2, s1⟩, hoperand, h⟩ := Res.bind_ok.mp h
  obtain ⟨⟨v1, s2⟩, hread, h⟩ := Res.bind_ok.mp h
  cases h
  exact (((operand_changes hoperand).onlyDraws (State.destRead_onlyDraws hread)).setCompare _ _).reorder
    (by decide)

/-- CPX and CPY (R217, R218). -/
theorem compareOp_changes {get : State → Byte} {o : Src} (h : compareOp get o s = .ok t) :
    Changes s t [] [.n, .z, .c] false false := by
  obtain ⟨⟨v, s1⟩, hoperand, h⟩ := Res.bind_ok.mp h
  cases h
  exact ((operand_changes hoperand).setCompare _ _).reorder (by decide)

/-- ASL, LSR, ROL and ROR: what is shifted out goes to C (R219 to R222). -/
theorem shift_changes {n : Nat} {l : Loc} {f : Byte → Byte} {k : Nat}
    (h : (s.advance n).modify l f (fun s v r => s.setShift (bitOf v k) r) = .ok t) :
    Changes s t (locRegs l) [.n, .z, .c] (locStores l) false :=
  modify_changes (fun _ r h => (h.setShift _ r).reorder (by decide)) h

/-! ### BRK -/

/-- BRK, with either outcome of R323 (R290, R320). -/
theorem brk_changes (h : (s.advance 2).softwareInterrupt = .ok t) :
    Changes s t [.sp] [.b, .i] true false := by
  have h0 := Changes.advance s 2
  unfold State.softwareInterrupt at h
  split at h
  · obtain ⟨s1, hpushes, h⟩ := Res.bind_ok.mp h
    have h1 := (h0.draw 1).enterPushes hpushes
    split at h
    · exact ((h1.setLines (acceptFirst_srcs _ _)).enterVector h).reorder (by decide)
    · exact (h1.enterVector h).reorder (by decide)
  · obtain ⟨s1, hpushes, h⟩ := Res.bind_ok.mp h
    exact ((h0.enterPushes hpushes).enterVector h).reorder (by decide)

/-! ### Every instruction -/

/-- The flags an instruction may write in a state: those of R47, and C too for CLD in the hazard of R350
(R357). -/
def flagsWritable (s : State) : Instr → List Flag
  | .cld => if s.afterDecimal then [.c, .d] else [.d]
  | i => flagsWritten i.mnemonic

/-- The table of R47 is the whole of it but for CLD in the hazard of R350. -/
theorem flagsWritable_eq {i : Instr} (h : ¬(i = .cld ∧ s.afterDecimal = true)) :
    flagsWritable s i = flagsWritten i.mnemonic := by
  unfold flagsWritable
  split
  · rw [if_neg fun hlate => h ⟨rfl, hlate⟩]; rfl
  · rfl

/-- From `s` to `t` an instruction has changed what the tables of R31 to R33, R47 and R74 give it, and perhaps the
run state. -/
def ChangesByTables (i : Instr) (s t : State) : Prop :=
  ∃ u r late, t = u.setRun r ∧
    Changes s u (regsWritten i) (flagsWritable s i) (!storesNothing i (s.flag .t)) late

/-- An instruction that leaves the run state. -/
theorem ChangesByTables.of {i : Instr}
    (h : Changes s t (regsWritten i) (flagsWritable s i) b late) (hb : b = !storesNothing i (s.flag .t)) :
    ChangesByTables i s t :=
  ⟨t, t.run, late, rfl, hb ▸ h⟩

/-- Every instruction changes what the tables give it and no more (R31 to R33, R47, R74). -/
theorem exec_changesByTables {i : Instr} (h : exec i s = .next t) : ChangesByTables i s t := by
  have hT : s.flag .t = !(!s.flag .t) := (Bool.not_not _).symm
  cases i with
  | adcIndX _ | adcZp _ | adcImm _ | adcAbs _ | adcIndY _ | adcZpX _ | adcAbsY _ | adcAbsX _
  | sbcIndX _ | sbcZp _ | sbcImm _ | sbcAbs _ | sbcIndY _ | sbcZpX _ | sbcAbsY _ | sbcAbsX _ =>
    exact .of (addSubOp_changes (finish_next.mp h)) hT
  | andIndX _ | andZp _ | andImm _ | andAbs _ | andIndY _ | andZpX _ | andAbsY _ | andAbsX _
  | eorIndX _ | eorZp _ | eorImm _ | eorAbs _ | eorIndY _ | eorZpX _ | eorAbsY _ | eorAbsX _
  | oraIndX _ | oraZp _ | oraImm _ | oraAbs _ | oraIndY _ | oraZpX _ | oraAbsY _ | oraAbsX _ =>
    exact .of (logicOp_changes (finish_next.mp h)) hT
  | ldaIndX _ | ldaZp _ | ldaImm _ | ldaAbs _ | ldaIndY _ | ldaZpX _ | ldaAbsY _ | ldaAbsX _ =>
    exact .of (ldaOp_changes (finish_next.mp h)) hT
  | ldxImm _ => exact .of (loadOp_changes (o := .imm _) (fun v h => h.setX v) (finish_next.mp h)) rfl
  | ldyImm _ => exact .of (loadOp_changes (o := .imm _) (fun v h => h.setY v) (finish_next.mp h)) rfl
  | ldxZp _ | ldxAbs _ | ldxZpY _ | ldxAbsY _ =>
    exact .of (loadOp_changes (fun v h => h.setX v) (finish_next.mp h)) rfl
  | ldyZp _ | ldyAbs _ | ldyZpX _ | ldyAbsX _ =>
    exact .of (loadOp_changes (fun v h => h.setY v) (finish_next.mp h)) rfl
  | staIndX _ | staZp _ | staAbs _ | staIndY _ | staZpX _ | staAbsY _ | staAbsX _
  | stxZp _ | stxAbs _ | stxZpY _ | styZp _ | styAbs _ | styZpX _ =>
    exact .of (storeOp_changes (finish_next.mp h)) rfl
  | ldm _ _ => exact .of ((Changes.advance s 3).write (finish_next.mp h)) rfl
  | tax | tsx | inx | dex => cases h; exact .of (registerOp_changes (fun v h => h.setX v) _) rfl
  | tay | iny | dey => cases h; exact .of (registerOp_changes (fun v h => h.setY v) _) rfl
  | txa | tya => cases h; exact .of (registerOp_changes (fun v h => h.setA v) _) rfl
  | txs => cases h; exact .of ((Changes.advance s 1).setSp _) rfl
  | pha | php => exact .of ((Changes.advance s 1).push (finish_next.mp h)) rfl
  | pla => exact .of (plaOp_changes (finish_next.mp h)) rfl
  | plp => exact .of (plpOp_changes (finish_next.mp h)) rfl
  | incAcc => exact .of (modify_setNZ_changes (show incOp .acc s = .ok t from finish_next.mp h)) rfl
  | decAcc => exact .of (modify_setNZ_changes (show decOp .acc s = .ok t from finish_next.mp h)) rfl
  | incZp _ | incAbs _ | incZpX _ | incAbsX _ | decZp _ | decAbs _ | decZpX _ | decAbsX _
  | com _ => exact .of (modify_setNZ_changes (finish_next.mp h)) rfl
  | aslAcc => exact .of (shift_changes (show aslOp .acc s = .ok t from finish_next.mp h)) rfl
  | lsrAcc => exact .of (shift_changes (show lsrOp .acc s = .ok t from finish_next.mp h)) rfl
  | rolAcc => exact .of (shift_changes (show rolOp .acc s = .ok t from finish_next.mp h)) rfl
  | rorAcc => exact .of (shift_changes (show rorOp .acc s = .ok t from finish_next.mp h)) rfl
  | aslZp _ | aslAbs _ | aslZpX _ | aslAbsX _ | lsrZp _ | lsrAbs _ | lsrZpX _ | lsrAbsX _
  | rolZp _ | rolAbs _ | rolZpX _ | rolAbsX _ | rorZp _ | rorAbs _ | rorZpX _ | rorAbsX _ =>
    exact .of (shift_changes (finish_next.mp h)) rfl
  | rrf _ | clbZp _ _ | sebZp _ _ => exact .of (modify_noFlag_changes (finish_next.mp h)) rfl
  | clbAcc _ | sebAcc _ => cases h; exact .of ((Changes.advance s 1).setA _) rfl
  | mul _ => exact .of (mulOp_changes (finish_next.mp h)) rfl
  | div _ => exact .of (divOp_changes (finish_next.mp h)) rfl
  | bitZp _ | bitAbs _ => exact .of (bitTestOp_changes (finish_next.mp h)) rfl
  | tst _ => exact .of (tstOp_changes (finish_next.mp h)) rfl
  | cmpIndX _ | cmpZp _ | cmpImm _ | cmpAbs _ | cmpIndY _ | cmpZpX _ | cmpAbsY _ | cmpAbsX _ =>
    exact .of (cmpOp_changes (finish_next.mp h)) rfl
  | cpxImm _ => exact .of (compareOp_changes (get := State.x) (o := .imm _) (finish_next.mp h)) rfl
  | cpyImm _ => exact .of (compareOp_changes (get := State.y) (o := .imm _) (finish_next.mp h)) rfl
  | cpxZp _ | cpxAbs _ | cpyZp _ | cpyAbs _ =>
    exact .of (compareOp_changes (finish_next.mp h)) rfl
  | clc | sec => cases h; exact .of (carryOp_changes _ s) rfl
  | cld => cases h; exact .of (cldOp_changes s) rfl
  | sed | cli | sei | clt | set | clv => cases h; exact .of (flagOp_changes _ _ s) rfl
  | bra _ | bcc _ | bcs _ | bne _ | beq _ | bpl _ | bmi _ | bvc _ | bvs _ =>
    cases h; exact .of (branchOp_changes _ _ s) rfl
  | bbcAcc _ _ | bbsAcc _ _ => cases h; exact .of (bitBranchAccOp_changes _ _ _ s) rfl
  | bbcZp _ _ _ | bbsZp _ _ _ => exact .of (bitBranchZpOp_changes (finish_next.mp h)) rfl
  | jmpAbs _ => cases h; exact .of ((Changes.advance s 3).setPc _) rfl
  | jmpInd _ => exact .of (jmpIndOp_changes (finish_next.mp h)) rfl
  | jmpZpInd _ => exact .of (jmpZpIndOp_changes (finish_next.mp h)) rfl
  | jsrAbs _ | jsrSp _ =>
    exact .of (jsrOp_changes (fun h => by cases h; exact OnlyDraws.refl _) (finish_next.mp h)) rfl
  | jsrZpInd _ => exact .of (jsrOp_changes State.zpPointer_onlyDraws (finish_next.mp h)) rfl
  | rts => exact .of (rtsOp_changes (finish_next.mp h)) rfl
  | rti => exact .of (rti_changes (finish_next.mp h)) rfl
  | brk => exact .of (brk_changes (finish_next.mp h)) rfl
  | nop => cases h; exact .of (Changes.advance s 1) rfl
  | wit => cases h; exact ⟨_, _, _, rfl, Changes.advance s 1⟩
  | stp =>
    cases h
    refine ⟨s.advance 1, if s.cfg.stpEnabled then .stopped else s.run, _, ?_, Changes.advance s 1⟩
    split <;> rfl

end Sys2Proof.Machine
end

section
/-!
PROOFS. What no instruction writes, and what every step keeps (R31 to R33, R47, R54, R82).
-/

namespace Sys2Proof.Machine

variable {s t : State}

/-- An instruction keeps the parameters, the sources, the kinds of addresses and the bytes of ROM (R54, R82). -/
theorem exec_keeps {i : Instr} (h : exec i s = .next t) : Keeps s t := by
  obtain ⟨u, r, late, rfl, hchanges⟩ := exec_changesByTables h
  exact hchanges.keeps.trans (u.setRun_keeps r)

/-- Settles O50: the flags an instruction may write are those of the table, CLD's hazard excepted. -/
theorem flagEffectsTable : Obligations.FlagEffectsTable := by
  intro s t i h hcld f hf
  obtain ⟨u, r, late, rfl, hchanges⟩ := exec_changesByTables h
  rw [State.setRun_flag]
  exact hchanges.flags f (by rwa [flagsWritable_eq hcld])

/-- Settles O51: the registers an instruction changes are those the tables name. -/
theorem registerWriters : Obligations.RegisterWriters := by
  intro s t i h r hr
  obtain ⟨u, run, late, rfl, hchanges⟩ := exec_changesByTables h
  rw [← hchanges.regs r hr]
  cases r <;> rfl

/-! ### Steps -/

/-- An acceptance keeps what every operation keeps (R312). -/
theorem State.acceptInterrupt_keeps {l : Line} (h : s.acceptInterrupt l = .ok t) : Keeps s t := by
  obtain ⟨u, henter, h⟩ := Res.bind_ok.mp h
  cases h
  exact (Keeps.setLines s (acceptFirst_srcs _ _)).trans
    ((State.enter_keeps henter).trans (u.setAfterDecimal_keeps false))

/-- What a turn has done so far has kept: the step, or the fetch before an instruction is executed. -/
def Turn.keeps (s : State) : Turn → Prop
  | .done t => Keeps s t
  | .stop _ => True
  | .execute _ t => Keeps s t

/-- An acceptance or a fetch keeps (R312). -/
theorem State.proceed_keeps (s : State) : s.proceed.keeps s := by
  unfold State.proceed
  split
  · rename_i l _
    cases h : s.acceptInterrupt l with
    | ok t => exact State.acceptInterrupt_keeps h
    | error f => trivial
  · split
    · rename_i i t hfetch
      exact (State.fetch_onlyDraws hfetch).keeps
    · trivial

/-- What a later turn keeps of a state, it keeps of one that state came from. -/
theorem Turn.keeps_of_keeps {turn : Turn} (h : Keeps s t) (hturn : turn.keeps t) : turn.keeps s := by
  cases turn with
  | done u => exact h.trans hturn
  | stop f => trivial
  | execute i u => exact h.trans hturn

/-- A boundary keeps, whether the CPU runs, wakes or waits on (R312, R326). -/
theorem State.boundary_keeps (s : State) (more : Bool) : (s.boundary more).keeps s := by
  unfold State.boundary
  split
  · exact Turn.keeps_of_keeps (s.setRun_keeps .running) (State.proceed_keeps _)
  · split
    · exact Keeps.refl s
    · trivial

/-- Every step but a reset keeps what every operation keeps, from the boundary on (R312). -/
theorem step_keeps (hnoReset : s.noReset) (h : step s = .next t) : Keeps s.atBoundary t := by
  obtain ⟨more, hturn⟩ := State.turn_of_noReset hnoReset
  have hkeeps := State.boundary_keeps s.atBoundary more
  rw [← hturn] at hkeeps
  unfold step at h
  split at h
  · rename_i u hdone
    cases h
    rwa [hdone] at hkeeps
  · cases h
  · rename_i i u hexecute
    rw [hexecute] at hkeeps
    exact hkeeps.trans (exec_keeps h)

/-- A reset leaves what the product fixes of the sources (R54, R341). -/
theorem resetLines_srcs (ls : List Line) (bits : List (Bool × Bool)) :
    (resetLines ls bits).map Line.src = ls.map Line.src := by
  induction ls generalizing bits with
  | nil => rfl
  | cons l ls ih =>
    cases bits with
    | nil => rfl
    | cons b bits => simp [resetLines, ih]

/-- A step at which the platform resets the machine is the reset (R313, R340). -/
theorem step_of_reset {v : ResetValues} {rest : List Input} (h : s.inputs = .reset v :: rest) :
    step s = .next ((s.setInputs rest).takeReset v) := by
  simp only [step, State.turn, h]

/-- The product's parameters and sources are kept by every step, a reset too (R54). -/
theorem step_sameProduct (h : step s = .next t) : SameProduct s t := by
  by_cases hnoReset : s.noReset
  · have hkeeps := step_keeps hnoReset h
    exact ⟨hkeeps.cfg.trans s.atBoundary_cfg, hkeeps.srcs.trans s.atBoundary_srcs⟩
  · simp only [State.noReset, not_forall, not_not] at hnoReset
    obtain ⟨v, rest, hreset⟩ := hnoReset
    rw [step_of_reset hreset] at h
    cases h
    exact ⟨rfl, resetLines_srcs _ _⟩

/-- Settles O54: the kind of an address follows from what the product fixes, and no store changes ROM. -/
theorem productAndRomAreKept : Obligations.ProductAndRomAreKept := by
  intro s t h
  obtain ⟨hcfg, hsrcs⟩ := step_sameProduct h
  refine ⟨⟨hcfg, hsrcs⟩, State.kindAt_congr hcfg hsrcs, fun hnoReset a b hrom => ?_⟩
  have hkept := (step_keeps hnoReset h).rom a b (by rwa [State.atBoundary_kindAt])
  rwa [State.atBoundary_peek] at hkept

end Sys2Proof.Machine
end

section
/-!
PROOFS. The course of an instruction by its mnemonic and addressing mode: one equation that says what `exec` does
with each (R111, R150).
-/

namespace Sys2Proof

/-- The memory operand of a form, zero page 00 where it has none. -/
def Form.mode : Form → MemMode
  | .mem m => m
  | _ => .zp 0

/-- What `Operand()` is for a form (R151). -/
def Form.src : Form → Src
  | .imm nn => .imm nn
  | f => .mem f.mode

/-- What a read-modify-write instruction of this form works on (R151). -/
def Form.loc : Form → Loc
  | .acc => .acc
  | f => .mem f.mode

/-- The zero page operand of a form indexed by X, 00 where it has none (R133). -/
def Form.zpXByte : Form → Byte
  | .mem (.zpX zz) => zz
  | _ => 0

/-- The offset of a relative form, 00 where it has none (R145). -/
def Form.offset : Form → Byte
  | .rel rr => rr
  | _ => 0

/-- The operand a form was made of. -/
@[simp] theorem Form.src_ofSrc (o : Src) : (Form.ofSrc o).src = o := by
  cases o <;> rfl

end Sys2Proof

namespace Sys2Proof.Machine

/-- The operation an instruction is, by its mnemonic and its form. The last arm is NOP's; what stands for a form
that the mnemonic does not have is no instruction's. -/
def course (s : State) : Mnemonic → Form → Res State
  | .adc, f => adcOp f.src s
  | .sbc, f => sbcOp f.src s
  | .and, f => logicOp (fun p q => p &&& q) f.src s
  | .ora, f => logicOp (fun p q => p ||| q) f.src s
  | .eor, f => logicOp (fun p q => p ^^^ q) f.src s
  | .lda, f => ldaOp f.src s
  | .ldx, f => loadOp State.setX f.src s
  | .ldy, f => loadOp State.setY f.src s
  | .tst, f => loadOp (fun s _ => s) f.src s
  | .cmp, f => cmpOp f.src s
  | .cpx, f => compareOp State.x f.src s
  | .cpy, f => compareOp State.y f.src s
  | .bit, f => bitTestOp f.mode s
  | .sta, f => storeOp State.a f.mode s
  | .stx, f => storeOp State.x f.mode s
  | .sty, f => storeOp State.y f.mode s
  | .ldm, .immZp nn zz => ldmOp nn zz s
  | .inc, f => incOp f.loc s
  | .dec, f => decOp f.loc s
  | .asl, f => aslOp f.loc s
  | .lsr, f => lsrOp f.loc s
  | .rol, f => rolOp f.loc s
  | .ror, f => rorOp f.loc s
  | .com, f => (s.advance f.loc.len).modify f.loc (fun v => ~~~v) fun s _ r => s.setNZ r
  | .rrf, f => (s.advance f.loc.len).modify f.loc swapHalves fun s _ _ => s
  | .clb, .accBit i => .ok (bitAccOp false i s)
  | .seb, .accBit i => .ok (bitAccOp true i s)
  | .clb, .zpBit i zz => bitZpOp false i zz s
  | .seb, .zpBit i zz => bitZpOp true i zz s
  | .mul, f => mulOp f.zpXByte s
  | .div, f => divOp f.zpXByte s
  | .inx, _ => .ok (registerOp State.setX (s.x + 1) s)
  | .dex, _ => .ok (registerOp State.setX (s.x - 1) s)
  | .iny, _ => .ok (registerOp State.setY (s.y + 1) s)
  | .dey, _ => .ok (registerOp State.setY (s.y - 1) s)
  | .tax, _ => .ok (registerOp State.setX s.a s)
  | .txa, _ => .ok (registerOp State.setA s.x s)
  | .tay, _ => .ok (registerOp State.setY s.a s)
  | .tya, _ => .ok (registerOp State.setA s.y s)
  | .tsx, _ => .ok (registerOp State.setX s.sp s)
  | .txs, _ => .ok ((s.advance 1).setSp s.x)
  | .pha, _ => (s.advance 1).push s.a
  | .php, _ => (s.advance 1).push s.ps.toByte
  | .pla, _ => plaOp s
  | .plp, _ => plpOp s
  | .clc, _ => .ok (carryOp false s)
  | .sec, _ => .ok (carryOp true s)
  | .cld, _ => .ok (cldOp s)
  | .sed, _ => .ok (flagOp .d true s)
  | .cli, _ => .ok (flagOp .i false s)
  | .sei, _ => .ok (flagOp .i true s)
  | .clt, _ => .ok (flagOp .t false s)
  | .set, _ => .ok (flagOp .t true s)
  | .clv, _ => .ok (flagOp .v false s)
  | .bra, f => .ok (branchOp true f.offset s)
  | .bcc, f => .ok (branchOp (!s.flag .c) f.offset s)
  | .bcs, f => .ok (branchOp (s.flag .c) f.offset s)
  | .bne, f => .ok (branchOp (!s.flag .z) f.offset s)
  | .beq, f => .ok (branchOp (s.flag .z) f.offset s)
  | .bpl, f => .ok (branchOp (!s.flag .n) f.offset s)
  | .bmi, f => .ok (branchOp (s.flag .n) f.offset s)
  | .bvc, f => .ok (branchOp (!s.flag .v) f.offset s)
  | .bvs, f => .ok (branchOp (s.flag .v) f.offset s)
  | .bbc, .accBitRel i rr => .ok (bitBranchAccOp false i rr s)
  | .bbs, .accBitRel i rr => .ok (bitBranchAccOp true i rr s)
  | .bbc, .zpBitRel i zz rr => bitBranchZpOp false i zz rr s
  | .bbs, .zpBitRel i zz rr => bitBranchZpOp true i zz rr s
  | .jmp, .mem m => do
    let (a, s) ← (s.advance 3).ea m
    return s.setPc a
  | .jmp, .indAbs p => jmpIndOp p s
  | .jmp, .zpInd zz => jmpZpIndOp zz s
  | .jsr, .mem m => jsrOp 3 (fun s => s.ea m) s
  | .jsr, .special ll => jsrOp 2 (fun s => .ok (joinBytes 0xFF ll, s)) s
  | .jsr, .zpInd zz => jsrOp 2 (fun s => s.zpPointer zz) s
  | .rts, _ => rtsOp s
  | .rti, _ => (s.advance 1).returnFromInterrupt
  | .brk, _ => (s.advance 2).softwareInterrupt
  | .wit, _ => .ok ((s.advance 1).setRun .waiting)
  | .stp, _ => .ok (if s.cfg.stpEnabled then (s.advance 1).setRun .stopped else s.advance 1)
  | _, _ => .ok (s.advance 1)

/-- Every instruction runs the course its mnemonic and form have (R111, R150). -/
theorem exec_eq_course (i : Instr) (s : State) : exec i s = finish (course s i.mnemonic i.form) := by
  cases i <;> rfl

/-- The course of an instruction known by its view. -/
theorem exec_of_view {i : Instr} {n : Mnemonic} {f : Form} (h : i.view = (n, f)) (s : State) :
    exec i s = finish (course s n f) := by
  rw [exec_eq_course, Instr.mnemonic, Instr.form, h]

/-- The mnemonics whose instructions are a read-modify-write of their operand in every form (R151). -/
def modifyMnemonics : List Mnemonic := [.inc, .dec, .asl, .lsr, .rol, .ror, .com, .rrf]

/-- The course of such an instruction is one read-modify-write (R151). -/
theorem course_eq_modify {n : Mnemonic} (hn : n ∈ modifyMnemonics) (f : Form) (s : State) :
    ∃ g k, course s n f = (s.advance f.loc.len).modify f.loc g k := by
  cases n with
  | inc => exact ⟨_, _, (rfl : incOp f.loc s = _)⟩
  | dec => exact ⟨_, _, (rfl : decOp f.loc s = _)⟩
  | asl => exact ⟨_, _, (rfl : aslOp f.loc s = _)⟩
  | lsr => exact ⟨_, _, (rfl : lsrOp f.loc s = _)⟩
  | rol => exact ⟨_, _, (rfl : rolOp f.loc s = _)⟩
  | ror => exact ⟨_, _, (rfl : rorOp f.loc s = _)⟩
  | com => exact ⟨fun v => ~~~v, fun s _ r => s.setNZ r, rfl⟩
  | rrf => exact ⟨swapHalves, fun s _ _ => s, rfl⟩
  | _ => exact absurd hn (by decide)

end Sys2Proof.Machine
end

section
/-!
PROOFS. Every step keeps the invariant; the instructions that store nothing (R70, R74, R326, R350).
-/

namespace Sys2Proof.Machine

variable {s t u : State} {R : List Reg} {F : List Flag} {b : Bool}

/-! ### Instructions -/

/-- What every operation keeps of the invariant is all of it but the clauses on the run state and the late carry. -/
theorem State.Inv.of_keeps (hinv : s.Inv) (hkeeps : Keeps s t)
    (hrun : t.run = .stopped → s.run = .stopped ∨ s.cfg.stpEnabled = true)
    (hlate : t.afterDecimal = true → t.flag .d = true) : t.Inv := by
  obtain ⟨hwf, hstop, -, hwrites⟩ := hinv
  refine ⟨hkeeps.wf hwf, fun h => ?_, hlate, fun a ha => ?_⟩
  · rw [hkeeps.cfg]
    exact (hrun h).elim hstop id
  · rw [hkeeps.kinds]
    exact hkeeps.writes hwrites a ha

/-- An operation that leaves no late carry keeps the invariant. -/
theorem Changes.inv (h : Changes s t R F b false) (hinv : s.Inv) : t.Inv :=
  hinv.of_keeps h.keeps (fun hstop => .inl (h.run ▸ hstop)) fun hlate => by simp [h.late] at hlate

/-- ADC and SBC leave a late carry only where they leave D = 1 (R350). -/
theorem addSubOp_inv {bin : Byte → Byte → Bool → AluResult} {dec : Nat → Byte → Byte → Bool → AluResult} {o : Src}
    (hinv : s.Inv) (h : addSubOp bin dec o s = .ok t) : t.Inv := by
  have hchanges := addSubOp_changes h
  refine hinv.of_keeps hchanges.keeps (fun hstop => .inl (hchanges.run ▸ hstop)) fun hlate => ?_
  rw [hchanges.flags .d (by decide), ← hchanges.late, hlate]

/-- WIT and STP keep the invariant: the stop state is entered only where STP is enabled (R291, R292). -/
theorem advance_setRun_inv {r : RunState} (hinv : s.Inv) (hr : r = .stopped → s.cfg.stpEnabled = true) :
    ((s.advance 1).setRun r).Inv :=
  hinv.of_keeps ((s.advance_keeps 1).trans ((s.advance 1).setRun_keeps r)) (fun h => .inr (hr h))
    fun h => Bool.noConfusion h

/-- Every course of an instruction keeps the invariant. -/
theorem course_inv {n : Mnemonic} {f : Form} (hinv : s.Inv) (h : course s n f = .ok t) : t.Inv := by
  cases n with
  | adc | sbc => exact addSubOp_inv hinv h
  | and | ora | eor => exact (logicOp_changes h).inv hinv
  | lda => exact (ldaOp_changes h).inv hinv
  | ldx => exact (loadOp_changes (fun v h => h.setX v) h).inv hinv
  | ldy => exact (loadOp_changes (fun v h => h.setY v) h).inv hinv
  | tst =>
    obtain ⟨⟨v, u⟩, hoperand, h⟩ := Res.bind_ok.mp h
    cases h
    exact ((operand_changes hoperand).setNZ v).inv hinv
  | cmp => exact (cmpOp_changes h).inv hinv
  | cpx | cpy => exact (compareOp_changes h).inv hinv
  | bit => exact (bitTestOp_changes h).inv hinv
  | sta | stx | sty => exact (storeOp_changes h).inv hinv
  | inc => exact (modify_setNZ_changes (show incOp f.loc s = .ok t from h)).inv hinv
  | dec => exact (modify_setNZ_changes (show decOp f.loc s = .ok t from h)).inv hinv
  | com => exact (modify_setNZ_changes h).inv hinv
  | asl | lsr | rol | ror => exact (shift_changes h).inv hinv
  | rrf => exact (modify_noFlag_changes h).inv hinv
  | mul => exact (mulOp_changes h).inv hinv
  | div => exact (divOp_changes h).inv hinv
  | inx | dex | tax | tsx => cases h; exact (registerOp_changes (fun v h => h.setX v) _).inv hinv
  | iny | dey | tay => cases h; exact (registerOp_changes (fun v h => h.setY v) _).inv hinv
  | txa | tya => cases h; exact (registerOp_changes (fun v h => h.setA v) _).inv hinv
  | txs => cases h; exact ((Changes.advance s 1).setSp _).inv hinv
  | pha | php => exact ((Changes.advance s 1).push h).inv hinv
  | pla => exact (plaOp_changes h).inv hinv
  | plp => exact (plpOp_changes h).inv hinv
  | clc | sec => cases h; exact (carryOp_changes _ s).inv hinv
  | cld => cases h; exact (cldOp_changes s).inv hinv
  | sed | cli | sei | clt | set | clv => cases h; exact (flagOp_changes _ _ s).inv hinv
  | bra | bcc | bcs | bne | beq | bpl | bmi | bvc | bvs => cases h; exact (branchOp_changes _ _ s).inv hinv
  | rts => exact (rtsOp_changes h).inv hinv
  | rti => exact (rti_changes h).inv hinv
  | brk => exact (brk_changes h).inv hinv
  | nop => cases h; exact (Changes.advance s 1).inv hinv
  | wit => cases h; exact advance_setRun_inv hinv fun h => RunState.noConfusion h
  | stp =>
    cases h
    split
    · rename_i henabled
      exact advance_setRun_inv hinv fun _ => henabled
    · exact (Changes.advance s 1).inv hinv
  | ldm => cases f with
    | immZp nn zz => exact ((Changes.advance s 3).write h).inv hinv
    | _ => cases h; exact (Changes.advance s 1).inv hinv
  | clb | seb => cases f with
    | accBit i => cases h; exact ((Changes.advance s 1).setA _).inv hinv
    | zpBit i zz => exact (modify_noFlag_changes (show bitZpOp _ i zz s = .ok t from h)).inv hinv
    | _ => cases h; exact (Changes.advance s 1).inv hinv
  | bbc | bbs => cases f with
    | accBitRel i rr => cases h; exact (bitBranchAccOp_changes _ _ _ s).inv hinv
    | zpBitRel i zz rr => exact (bitBranchZpOp_changes h).inv hinv
    | _ => cases h; exact (Changes.advance s 1).inv hinv
  | jmp => cases f with
    | mem m =>
      obtain ⟨⟨a, u⟩, hea, h⟩ := Res.bind_ok.mp h
      cases h
      exact (((Changes.advance s 3).onlyDraws (State.ea_onlyDraws hea)).setPc a).inv hinv
    | indAbs p => exact (jmpIndOp_changes h).inv hinv
    | zpInd zz => exact (jmpZpIndOp_changes h).inv hinv
    | _ => cases h; exact (Changes.advance s 1).inv hinv
  | jsr => cases f with
    | mem m => exact (jsrOp_changes State.ea_onlyDraws h).inv hinv
    | special ll => exact (jsrOp_changes (fun h => by cases h; exact OnlyDraws.refl _) h).inv hinv
    | zpInd zz => exact (jsrOp_changes State.zpPointer_onlyDraws h).inv hinv
    | _ => cases h; exact (Changes.advance s 1).inv hinv

/-- Every instruction keeps the invariant. -/
theorem exec_inv {i : Instr} (hinv : s.Inv) (h : exec i s = .next t) : t.Inv :=
  course_inv hinv (finish_next.mp ((exec_eq_course i s).symm.trans h))

/-- Settles O52: where the table gives an instruction no store, the frame of its operation has none (R74). -/
theorem nonStoringInstructions : Obligations.NonStoringInstructions := by
  intro s t i h hstores
  obtain ⟨u, r, late, rfl, hchanges⟩ := exec_changesByTables h
  exact hchanges.mem (by simp [hstores])

/-! ### Steps -/

/-- Nothing changes between a state and itself. -/
theorem Changes.refl (s : State) : Changes s s [] [] true s.afterDecimal :=
  ⟨fun _ _ => rfl, fun _ _ => rfl, fun e => Bool.noConfusion e, rfl, Keeps.refl s, rfl⟩

/-- An acceptance keeps the invariant and ends the hazard of a late carry (R312, R350). -/
theorem State.acceptInterrupt_inv {l : Line} (hinv : s.Inv) (h : s.acceptInterrupt l = .ok t) : t.Inv := by
  obtain ⟨u, henter, h⟩ := Res.bind_ok.mp h
  obtain ⟨w, hpushes, hvector⟩ := Res.bind_ok.mp henter
  cases h
  have hentered :=
    (((Changes.refl s).setLines (acceptFirst_srcs _ _)).enterPushes hpushes).enterVector hvector
  exact (hentered.setAfterDecimal false).inv hinv

/-- The invariant holds of the state a turn has come to. -/
def Turn.inv : Turn → Prop
  | .done t => t.Inv
  | .stop _ => True
  | .execute _ t => t.Inv

/-- An acceptance or a fetch keeps the invariant (R312). -/
theorem State.proceed_inv (hinv : s.Inv) : s.proceed.inv := by
  unfold State.proceed
  split
  · rename_i l _
    cases h : s.acceptInterrupt l with
    | ok t => exact State.acceptInterrupt_inv hinv h
    | error f => trivial
  · split
    · rename_i i t hfetch
      obtain ⟨k, rfl⟩ := State.fetch_onlyDraws hfetch
      exact hinv
    · trivial

/-- A CPU that wakes keeps the invariant (R326). -/
theorem State.wake_inv (hinv : s.Inv) : (s.setRun .running).Inv := by
  obtain ⟨hwf, -, hlate, hwrites⟩ := hinv
  exact ⟨hwf, fun h => RunState.noConfusion h, hlate, hwrites⟩

/-- A boundary keeps the invariant, whether the CPU runs, wakes or waits on (R312, R326). -/
theorem State.boundary_inv (hinv : s.Inv) (more : Bool) : (s.boundary more).inv := by
  unfold State.boundary
  split
  · exact State.proceed_inv (State.wake_inv hinv)
  · split
    · exact hinv
    · trivial

/-- The platform's requests keep the invariant (R310). -/
theorem State.atBoundary_inv (hinv : s.Inv) : s.atBoundary.Inv := by
  obtain ⟨hwf, hstop, hlate, hwrites⟩ := hinv
  have hkinds := s.atBoundary_kindAt
  obtain ⟨is, ls, heq, -⟩ := s.atBoundary_eq
  rw [heq] at hkinds ⊢
  exact ⟨hwf, hstop, hlate, fun a ha => by rw [hkinds]; exact hwrites a ha⟩

/-- The invariant holds after a reset, whatever the platform's values are (R340). -/
theorem State.takeReset_inv (s : State) (v : ResetValues) : (s.takeReset v).Inv :=
  ⟨Memory.wf_ofCells _, fun h => RunState.noConfusion h, fun h => Bool.noConfusion h, fun _ ha => by cases ha⟩

/-- Settles O55: the boundary keeps the invariant, then the instruction does; a reset sets it up anew. -/
theorem invariantKept : Obligations.InvariantKept := by
  intro s t hinv h
  by_cases hnoReset : s.noReset
  · obtain ⟨more, hturn⟩ := State.turn_of_noReset hnoReset
    have hboundary := State.boundary_inv (State.atBoundary_inv hinv) more
    rw [← hturn] at hboundary
    unfold step at h
    split at h
    · rename_i u hdone
      cases h
      rwa [hdone] at hboundary
    · cases h
    · rename_i i u hexecute
      rw [hexecute] at hboundary
      exact exec_inv hboundary h
  · simp only [State.noReset, not_forall, not_not] at hnoReset
    obtain ⟨v, rest, hreset⟩ := hnoReset
    rw [step_of_reset hreset] at h
    cases h
    exact State.takeReset_inv _ v

end Sys2Proof.Machine
end

section
/-!
PROOFS. On a product with every address implemented and every ROM declared to ignore writes, every instruction
completes (R71, R113, R114, R300, R301).
-/

namespace Sys2Proof.Machine

variable {s : State}

/-- An operation that begins with a read answers when the read does and then the rest does. -/
theorem Res.bind_answers {α β : Type} {x : Res (α × State)} {k : α × State → Res β}
    (hx : ∃ v u, x = .ok (v, u) ∧ u.implemented) (hk : ∀ v u, u.implemented → ∃ b, k (v, u) = .ok b) :
    ∃ b, (x >>= k) = .ok b := by
  obtain ⟨v, u, hx, hu⟩ := hx
  obtain ⟨b, hb⟩ := hk v u hu
  exact ⟨b, (Res.bind_of_ok hx).trans hb⟩

/-- An operation that begins with a store answers when the store does and then the rest does. -/
theorem Res.bind_store_answers {β : Type} {x : Res State} {k : State → Res β}
    (hx : ∃ u, x = .ok u ∧ u.implemented) (hk : ∀ u, u.implemented → ∃ b, k u = .ok b) :
    ∃ b, (x >>= k) = .ok b := by
  obtain ⟨u, hx, hu⟩ := hx
  obtain ⟨b, hb⟩ := hk u hu
  exact ⟨b, (Res.bind_of_ok hx).trans hb⟩

/-- ADC and SBC (R194, R195). -/
theorem addSubOp_answers (bin : Byte → Byte → Bool → AluResult) (dec : Nat → Byte → Byte → Bool → AluResult)
    (o : Src) (h : s.implemented) : ∃ t, addSubOp bin dec o s = .ok t :=
  Res.bind_answers (State.operand_answers (s := s.advance o.len) h o) fun _ _ h =>
    Res.bind_answers (State.destRead_answers h) fun _ u h =>
      Res.bind_store_answers (State.destWrite_answers (s := u.draw _) h _) fun _ _ => ⟨_, rfl⟩

/-- AND, ORA and EOR (R210 to R212). -/
theorem logicOp_answers (f : Byte → Byte → Byte) (o : Src) (h : s.implemented) : ∃ t, logicOp f o s = .ok t :=
  Res.bind_answers (State.operand_answers (s := s.advance o.len) h o) fun _ _ h =>
    Res.bind_answers (State.destRead_answers h) fun _ _ h =>
      Res.bind_store_answers (State.destWrite_answers h _) fun _ _ => ⟨_, rfl⟩

/-- LDA (R161). -/
theorem ldaOp_answers (o : Src) (h : s.implemented) : ∃ t, ldaOp o s = .ok t :=
  Res.bind_answers (State.operand_answers (s := s.advance o.len) h o) fun _ _ h =>
    Res.bind_store_answers (State.destWrite_answers h _) fun _ _ => ⟨_, rfl⟩

/-- LDX and LDY (R163, R164). -/
theorem loadOp_answers (put : State → Byte → State) (o : Src) (h : s.implemented) :
    ∃ t, loadOp put o s = .ok t :=
  Res.bind_answers (State.operand_answers (s := s.advance o.len) h o) fun _ _ _ => ⟨_, rfl⟩

/-- CMP (R216). -/
theorem cmpOp_answers (o : Src) (h : s.implemented) : ∃ t, cmpOp o s = .ok t :=
  Res.bind_answers (State.operand_answers (s := s.advance o.len) h o) fun _ _ h =>
    Res.bind_answers (State.destRead_answers h) fun _ _ _ => ⟨_, rfl⟩

/-- CPX and CPY (R217, R218). -/
theorem compareOp_answers (get : State → Byte) (o : Src) (h : s.implemented) :
    ∃ t, compareOp get o s = .ok t :=
  Res.bind_answers (State.operand_answers (s := s.advance o.len) h o) fun _ _ _ => ⟨_, rfl⟩

/-- BIT (R214). -/
theorem bitTestOp_answers (m : MemMode) (h : s.implemented) : ∃ t, bitTestOp m s = .ok t :=
  Res.bind_answers (State.operand_answers (s := s.advance m.len) h (.mem m)) fun _ _ _ => ⟨_, rfl⟩

/-- STA, STX and STY (R165 to R167). -/
theorem storeOp_answers (get : State → Byte) (m : MemMode) (h : s.implemented) :
    ∃ t, storeOp get m s = .ok t :=
  Res.bind_answers (State.ea_answers (s := s.advance m.len) h m) fun a _ h =>
    (State.write_answers h a _).imp fun _ ht => ht.1

/-- PLA (R176). -/
theorem plaOp_answers (h : s.implemented) : ∃ t, plaOp s = .ok t :=
  Res.bind_answers (State.pull_answers (s := s.advance 1) h) fun _ _ _ => ⟨_, rfl⟩

/-- PLP (R177). -/
theorem plpOp_answers (h : s.implemented) : ∃ t, plpOp s = .ok t :=
  Res.bind_answers (State.pull_answers (s := s.advance 1) h) fun _ _ _ => ⟨_, rfl⟩

/-- MUL, on a product that has it (R113, R202). -/
theorem mulOp_answers (zz : Byte) (h : s.implemented) (hpresent : s.cfg.hasMulDiv = true) :
    ∃ t, mulOp zz s = .ok t := by
  unfold mulOp
  rw [if_pos hpresent]
  exact Res.bind_answers (State.read_answers (s := s.advance 2) h _) fun _ _ h =>
    Res.bind_store_answers (State.push_answers h _) fun _ _ => ⟨_, rfl⟩

/-- DIV, on a product that has it (R113, R203). -/
theorem divOp_answers (zz : Byte) (h : s.implemented) (hpresent : s.cfg.hasMulDiv = true) :
    ∃ t, divOp zz s = .ok t := by
  unfold divOp
  rw [if_pos hpresent]
  exact Res.bind_answers (State.zpPointer_answers (s := s.advance 2) h _) fun _ u h =>
    Res.bind_store_answers (State.push_answers (s := u.draw _) h _) fun _ _ => ⟨_, rfl⟩

/-- BBC and BBS on a zero page byte, with and without the hazard of R352 (R263, R264). -/
theorem bitBranchZpOp_answers (b : Bool) (i : BitNo) (zz rr : Byte) (h : s.implemented) :
    ∃ t, bitBranchZpOp b i zz rr s = .ok t :=
  Res.bind_answers (State.read_answers (s := s.advance 3) h _) fun _ _ _ => by
    dsimp only
    split
    · exact ⟨_, rfl⟩
    · exact ⟨_, rfl⟩

/-- `JMP ($hhll)` where the indirect address does not end in FF (R114, R260). -/
theorem jmpIndOp_answers {p : Addr} (h : s.implemented) (hpage : lowByte p ≠ 0xFF) :
    ∃ t, jmpIndOp p s = .ok t := by
  unfold jmpIndOp
  rw [if_neg hpage]
  exact Res.bind_answers (State.absPointer_answers (s := s.advance 3) h p) fun _ _ _ => ⟨_, rfl⟩

/-- `JMP ($zz)` (R143, R260). -/
theorem jmpZpIndOp_answers (zz : Byte) (h : s.implemented) : ∃ t, jmpZpIndOp zz s = .ok t :=
  Res.bind_answers (State.zpPointer_answers (s := s.advance 2) h zz) fun _ _ _ => ⟨_, rfl⟩

/-- JSR, its destination found wherever it lies (R262). -/
theorem jsrOp_answers (n : Nat) {target : State → Res (Addr × State)} (h : s.implemented)
    (htarget : ∀ u : State, u.implemented → ∃ v w, target u = .ok (v, w) ∧ w.implemented) :
    ∃ t, jsrOp n target s = .ok t :=
  Res.bind_store_answers (State.pushWord_answers (s := s.advance n) h _) fun u h =>
    Res.bind_answers (htarget u h) fun _ _ _ => ⟨_, rfl⟩

/-- RTS (R274). -/
theorem rtsOp_answers (h : s.implemented) : ∃ t, rtsOp s = .ok t :=
  Res.bind_answers (State.pullWord_answers (s := s.advance 1) h) fun _ _ _ => ⟨_, rfl⟩

/-- RTI (R273, R324). -/
theorem State.returnFromInterrupt_answers (h : s.implemented) : ∃ t, s.returnFromInterrupt = .ok t :=
  Res.bind_answers (State.pull_answers h) fun v u h =>
    Res.bind_answers (State.pullWord_answers (s := u.setPs (Status.ofByte v)) h) fun _ _ _ => ⟨_, rfl⟩

/-- A read-modify-write instruction (R151). -/
theorem modify_course_answers {n : Mnemonic} (hn : n ∈ modifyMnemonics) (f : Form) (h : s.implemented) :
    ∃ t, course s n f = .ok t := by
  obtain ⟨g, k, hmodify⟩ := course_eq_modify hn f s
  rw [hmodify]
  exact State.modify_answers (s := s.advance f.loc.len) h f.loc g k

/-- CLB and SEB on a zero page byte (R240, R241). -/
theorem bitZpOp_answers (b : Bool) (i : BitNo) (zz : Byte) (h : s.implemented) :
    ∃ t, bitZpOp b i zz s = .ok t :=
  State.modify_answers (s := s.advance 2) h (.mem (.zp zz)) (fun v => putBit v i.toNat b) fun s _ _ => s

/-- Every course of an instruction completes but `JMP ($hhFF)`, and MUL and DIV on a product without them. -/
theorem course_answers {n : Mnemonic} {f : Form} (h : s.implemented)
    (hjmp : ∀ p, n = .jmp → f = .indAbs p → lowByte p ≠ 0xFF)
    (hmulDiv : n = .mul ∨ n = .div → s.cfg.hasMulDiv = true) : ∃ t, course s n f = .ok t := by
  cases n with
  | adc | sbc => exact addSubOp_answers _ _ f.src h
  | and | ora | eor => exact logicOp_answers _ f.src h
  | lda => exact ldaOp_answers f.src h
  | ldx | ldy => exact loadOp_answers _ f.src h
  | tst => exact loadOp_answers (fun s _ => s) f.src h
  | cmp => exact cmpOp_answers f.src h
  | cpx | cpy => exact compareOp_answers _ f.src h
  | bit => exact bitTestOp_answers f.mode h
  | sta | stx | sty => exact storeOp_answers _ f.mode h
  | inc | dec | asl | lsr | rol | ror | com | rrf =>
    exact modify_course_answers (by decide) f h
  | mul => exact mulOp_answers _ h (hmulDiv (.inl rfl))
  | div => exact divOp_answers _ h (hmulDiv (.inr rfl))
  | pha | php => exact (State.push_answers (s := s.advance 1) h _).imp fun _ ht => ht.1
  | pla => exact plaOp_answers h
  | plp => exact plpOp_answers h
  | rts => exact rtsOp_answers h
  | rti => exact State.returnFromInterrupt_answers (s := s.advance 1) h
  | brk => exact State.softwareInterrupt_answers (s := s.advance 2) h
  | ldm => cases f with
    | immZp nn zz => exact (State.write_answers (s := s.advance 3) h _ nn).imp fun _ ht => ht.1
    | _ => exact ⟨_, rfl⟩
  | clb | seb => cases f with
    | zpBit i zz => exact bitZpOp_answers _ i zz h
    | _ => exact ⟨_, rfl⟩
  | bbc | bbs => cases f with
    | zpBitRel i zz rr => exact bitBranchZpOp_answers _ i zz rr h
    | _ => exact ⟨_, rfl⟩
  | jmp => cases f with
    | mem m => exact Res.bind_answers (State.ea_answers (s := s.advance 3) h m) fun _ _ _ => ⟨_, rfl⟩
    | indAbs p => exact jmpIndOp_answers h (hjmp p rfl rfl)
    | zpInd zz => exact jmpZpIndOp_answers zz h
    | _ => exact ⟨_, rfl⟩
  | jsr => cases f with
    | mem m => exact jsrOp_answers 3 h fun u hu => State.ea_answers hu m
    | special ll => exact jsrOp_answers 2 h fun u hu => ⟨_, u, rfl, hu⟩
    | zpInd zz => exact jsrOp_answers 2 h fun u hu => State.zpPointer_answers hu zz
    | _ => exact ⟨_, rfl⟩
  | _ => exact ⟨_, rfl⟩

/-- A well-formed `JMP ($hhll)` has no indirect address that ends in FF (R114). -/
theorem lowByte_of_wellFormed {i : Instr} {p : Addr} (hwf : i.wellFormed = true) (hn : i.mnemonic = .jmp)
    (hf : i.form = .indAbs p) : lowByte p ≠ 0xFF := by
  have hview : i.view = (.jmp, .indAbs p) := Prod.ext hn hf
  simpa [Instr.wellFormed, hview, lowByte] using hwf

/-- Settles O53: the two courses that stop are those that the hypotheses except. -/
theorem everyInstructionCompletes : Obligations.EveryInstructionCompletes := by
  intro s i himplemented hwf hmulDiv
  obtain ⟨t, ht⟩ := course_answers himplemented (fun p => lowByte_of_wellFormed hwf) hmulDiv
  exact ⟨t, by rw [exec_eq_course, ht]; rfl⟩

end Sys2Proof.Machine
end

section
/-!
PROOFS. Plain memory reads as last written; what an instruction fetch reads; and where an access stops the model
(R71, R82, R87).
-/

namespace Sys2Proof.Machine

variable {s u : State} {a : Addr} {f : Fault}

/-! ### Plain memory and the fetch of a byte -/

/-- Settles O6: the store keeps the kind of every address, and leaves every byte but its own. -/
theorem plainMemoryReadsAsLastWritten : Obligations.PlainMemoryReadsAsLastWritten := by
  intro s a v hram
  have hwrite := State.write_ram (v := v) hram
  have hkeeps := State.write_keeps hwrite
  obtain ⟨hstored, -⟩ := State.write_stores hwrite
  obtain ⟨-, -, hpeek, -⟩ := State.write_leaves hwrite
  refine ⟨_, hwrite, ?_, State.write_leaves hwrite, fun b hb hplain => ?_⟩
  · rw [State.read_plain (.inl ((hkeeps.kinds a).trans hram)), hstored hram]
  · rw [State.read_plain (by rw [hkeeps.kinds b]; exact hplain), hpeek b (by simpa using hb)]

/-- Settles O56: the two cases of a byte's fetch. -/
theorem fetchOfAByteJustStored : Obligations.FetchOfAByteJustStored :=
  fun _ _ => ⟨fun h => if_pos (by simpa using h), fun h => if_neg (by simpa using h)⟩

/-! ### Accesses that stop -/

/-- An operation whose first part stops, stops with the same fault. -/
theorem Res.bind_of_error {α β : Type} {x : Res α} {k : α → Res β} {f : Fault} (h : x = .error f) :
    (x >>= k) = .error f := by
  subst h; rfl

/-- A store to the address stops the model with this fault (R82, U10). -/
def State.storeStops (s : State) (a : Addr) (f : Fault) : Prop :=
  s.kindAt a = .unimplemented ∧ f = .unimplementedAddress a ∨ s.kindAt a = .rom false ∧ f = .romWrite a

/-- A read of an unimplemented address stops (R82). -/
theorem State.read_stops (h : s.kindAt a = .unimplemented) : s.read a = .error (.unimplementedAddress a) := by
  unfold State.read; rw [h]

/-- A store to an unimplemented address, or to ROM not said to ignore it, stops (R82). -/
theorem State.write_stops (h : s.storeStops a f) (v : Byte) : s.write a v = .error f := by
  unfold State.write
  rcases h with ⟨hk, rfl⟩ | ⟨hk, rfl⟩ <;> rw [hk]

/-- A read where a store stops is one of ROM, or stops with the same fault as the store. -/
theorem State.read_of_storeStops (h : s.storeStops a f) :
    s.read a = .error f ∨ s.read a = .ok (s.peek a, s) := by
  rcases h with ⟨hk, rfl⟩ | ⟨hk, rfl⟩
  · exact .inl (State.read_stops hk)
  · exact .inr (State.read_plain (.inr ⟨false, hk⟩))

/-! ### Operands that stop -/

/-- An operand in unimplemented memory stops (R151). -/
theorem operand_stops (n : Nat) {m : MemMode} (hea : s.ea m = .ok (a, u)) (hk : s.kindAt a = .unimplemented) :
    (s.advance n).operand (.mem m) = .error (.unimplementedAddress a) := by
  obtain ⟨k, -, hea⟩ := (SameView.advance s n).ea hea
  exact (Res.bind_of_ok hea).trans (State.read_stops (s := (s.advance n).draw k) hk)

/-- A store at an effective address where stores stop (R151). -/
theorem storeOp_stops (get : State → Byte) {m : MemMode} (hea : s.ea m = .ok (a, u)) (h : s.storeStops a f) :
    storeOp get m s = .error f := by
  obtain ⟨k, -, hea⟩ := (SameView.advance s m.len).ea hea
  exact (Res.bind_of_ok hea).trans (State.write_stops (s := (s.advance m.len).draw k) h _)

/-- A read-modify-write where stores stop: at the read of an unimplemented address, else at the store (R151). -/
theorem modify_stops (n : Nat) {m : MemMode} (g : Byte → Byte) (k : State → Byte → Byte → State)
    (hea : s.ea m = .ok (a, u)) (h : s.storeStops a f) : (s.advance n).modify (.mem m) g k = .error f := by
  obtain ⟨j, -, hea⟩ := (SameView.advance s n).ea hea
  have hj : ((s.advance n).draw j).storeStops a f := h
  refine (Res.bind_of_ok hea).trans ?_
  rcases State.read_of_storeStops hj with hread | hread
  · exact Res.bind_of_error hread
  · exact (Res.bind_of_ok hread).trans (Res.bind_of_error (State.write_stops hj _))

/-- CLB and SEB on a zero page byte where stores stop (R240, R241). -/
theorem bitZpOp_stops (b : Bool) (i : BitNo) {zz : Byte} (h : s.storeStops (zext16 zz) f) :
    bitZpOp b i zz s = .error f :=
  modify_stops 2 (fun v => putBit v i.toNat b) (fun s _ _ => s) (show s.ea (.zp zz) = .ok (zext16 zz, s) from rfl) h

/-- A read-modify-write instruction on a byte where stores stop (R151). -/
theorem modify_course_stops {n : Mnemonic} {m : MemMode} (hn : n ∈ modifyMnemonics) (hea : s.ea m = .ok (a, u))
    (h : s.storeStops a f) : course s n (.mem m) = .error f := by
  obtain ⟨g, k, hmodify⟩ := course_eq_modify hn (.mem m) s
  rw [hmodify]
  exact modify_stops _ g k hea h

/-! ### A destination that stops -/

/-- The read of M(X) where stores stop (R152). -/
theorem State.destRead_of_storeStops (ht : s.flag .t = true) (h : s.storeStops s.mxAddr f) :
    s.destRead = .error f ∨ s.destRead = .ok (s.peek s.mxAddr, s) := by
  unfold State.destRead
  rw [if_pos ht]
  exact State.read_of_storeStops h

/-- A result for M(X) where stores stop (R152). -/
theorem State.destWrite_stops (ht : s.flag .t = true) (h : s.storeStops s.mxAddr f) (v : Byte) :
    s.destWrite v = .error f := by
  unfold State.destWrite
  rw [if_pos ht]
  exact State.write_stops h v

/-- An operand is read alike once PC has moved past the instruction (R151, R160). -/
theorem operand_after_advance {o : Src} {v : Byte} (n : Nat) (h : s.operand o = .ok (v, u)) :
    ∃ k, (s.advance n).operand o = .ok (v, (s.advance n).draw k) := by
  obtain ⟨k, -, h⟩ := (SameView.advance s n).operand h
  exact ⟨k, h⟩

section
variable {o : Src} {v : Byte} (hoperand : s.operand o = .ok (v, u)) (ht : s.flag .t = true)
include hoperand ht

/-- CMP with M(X) in unimplemented memory (R216). -/
theorem cmpOp_stops (h : s.kindAt s.mxAddr = .unimplemented) :
    cmpOp o s = .error (.unimplementedAddress s.mxAddr) := by
  obtain ⟨k, hoperand⟩ := operand_after_advance o.len hoperand
  have hread : ((s.advance o.len).draw k).destRead = .error (.unimplementedAddress s.mxAddr) :=
    (if_pos ht).trans (State.read_stops (s := (s.advance o.len).draw k) h)
  exact (Res.bind_of_ok hoperand).trans (Res.bind_of_error hread)

variable (h : s.storeStops s.mxAddr f)
include h

/-- LDA to M(X) where stores stop (R161). -/
theorem ldaOp_stops : ldaOp o s = .error f := by
  obtain ⟨k, hoperand⟩ := operand_after_advance o.len hoperand
  exact (Res.bind_of_ok hoperand).trans
    (Res.bind_of_error (State.destWrite_stops (s := (s.advance o.len).draw k) ht h v))

/-- ADC and SBC with M(X) where stores stop (R194, R195). -/
theorem addSubOp_stops (bin : Byte → Byte → Bool → AluResult) (dec : Nat → Byte → Byte → Bool → AluResult) :
    addSubOp bin dec o s = .error f := by
  obtain ⟨k, hoperand⟩ := operand_after_advance o.len hoperand
  refine (Res.bind_of_ok hoperand).trans ?_
  rcases State.destRead_of_storeStops (s := (s.advance o.len).draw k) ht h with hread | hread
  · exact Res.bind_of_error hread
  · have hwrite (j : Nat) := State.destWrite_stops (s := ((s.advance o.len).draw k).draw j) ht h
    exact (Res.bind_of_ok hread).trans (Res.bind_of_error (hwrite _ _))

/-- AND, ORA and EOR with M(X) where stores stop (R210 to R212). -/
theorem logicOp_stops (g : Byte → Byte → Byte) : logicOp g o s = .error f := by
  obtain ⟨k, hoperand⟩ := operand_after_advance o.len hoperand
  refine (Res.bind_of_ok hoperand).trans ?_
  rcases State.destRead_of_storeStops (s := (s.advance o.len).draw k) ht h with hread | hread
  · exact Res.bind_of_error hread
  · exact (Res.bind_of_ok hread).trans
      (Res.bind_of_error (State.destWrite_stops (s := (s.advance o.len).draw k) ht h _))

/-- Every instruction that writes its result to M(X) stops where stores there do (R152). -/
theorem dest_course_stops {n : Mnemonic} (hn : n ∈ [.lda, .adc, .sbc, .and, .ora, .eor]) :
    course s n (.ofSrc o) = .error f := by
  rw [← Form.src_ofSrc o] at hoperand
  cases n with
  | lda => exact ldaOp_stops hoperand ht h
  | adc | sbc => exact addSubOp_stops hoperand ht h _ _
  | and | ora | eor => exact logicOp_stops hoperand ht h _
  | _ => exact absurd hn (by decide)

end

/-! ### A stack that stops -/

/-- A pull from unimplemented memory stops (R38). -/
theorem State.pull_stops (h : s.kindAt (s.stackAt (s.sp + 1)) = .unimplemented) :
    s.pull = .error (.unimplementedAddress (s.stackAt (s.sp + 1))) :=
  State.read_stops (s := s.setSp (s.sp + 1)) h

/-- A push where stores stop (R37). -/
theorem State.push_stops (h : s.storeStops s.stackAddr f) (v : Byte) : s.push v = .error f :=
  Res.bind_of_error (State.write_stops h v)

/-- The first push of a 16-bit value where stores stop (R72). -/
theorem State.pushWord_stops (h : s.storeStops s.stackAddr f) (v : Addr) : s.pushWord v = .error f :=
  Res.bind_of_error (State.push_stops h _)

/-- The first push of an interrupt entry where stores stop (R320). -/
theorem State.enterPushes_stops (h : s.storeStops s.stackAddr f) (b : Bool) : s.enterPushes b = .error f :=
  Res.bind_of_error (State.pushWord_stops (s := s.setFlag .b b) h _)

/-- BRK where stores to the stack stop, with either outcome of R323 (R290). -/
theorem State.softwareInterrupt_stops (h : s.storeStops s.stackAddr f) : s.softwareInterrupt = .error f := by
  unfold State.softwareInterrupt
  split
  · exact Res.bind_of_error (State.enterPushes_stops (s := s.draw 1) h true)
  · exact Res.bind_of_error (State.enterPushes_stops h true)

/-- JSR where stores to the stack stop (R262). -/
theorem jsrOp_stops (h : s.storeStops s.stackAddr f) (n : Nat) (target : State → Res (Addr × State)) :
    jsrOp n target s = .error f :=
  Res.bind_of_error (State.pushWord_stops (s := s.advance n) h _)

/-! ### Instructions that stop -/

/-- An instruction whose course stops, stops. -/
theorem exec_of_course_stops {i : Instr} {n : Mnemonic} {form : Form} (hview : i.view = (n, form))
    (h : course s n form = .error f) : exec i s = .fault f := by
  rw [exec_of_view hview, h]; rfl

/-- Every instruction that reads its operand stops where it lies in unimplemented memory (R151). -/
theorem operand_course_stops {n : Mnemonic} {m : MemMode}
    (hn : n ∈ [.lda, .ldx, .ldy, .adc, .sbc, .and, .ora, .eor, .cmp, .cpx, .cpy, .bit, .tst, .inc, .dec, .asl, .lsr,
      .rol, .ror, .com, .rrf])
    (hea : s.ea m = .ok (a, u)) (hk : s.kindAt a = .unimplemented) :
    course s n (.mem m) = .error (.unimplementedAddress a) := by
  cases n with
  | lda | ldx | ldy | adc | sbc | and | ora | eor | cmp | cpx | cpy | bit | tst =>
    exact Res.bind_of_error (operand_stops _ hea hk)
  | inc | dec | asl | lsr | rol | ror | com | rrf =>
    exact modify_course_stops (by decide) hea (.inl ⟨hk, rfl⟩)
  | _ => exact absurd hn (by decide)

/-- Every instruction that stores at its effective address stops where stores there do (R151). -/
theorem store_course_stops {n : Mnemonic} {m : MemMode}
    (hn : n ∈ [.sta, .stx, .sty, .inc, .dec, .asl, .lsr, .rol, .ror, .com, .rrf])
    (hea : s.ea m = .ok (a, u)) (h : s.storeStops a f) : course s n (.mem m) = .error f := by
  cases n with
  | sta | stx | sty => exact storeOp_stops _ hea h
  | inc | dec | asl | lsr | rol | ror | com | rrf => exact modify_course_stops (by decide) hea h
  | _ => exact absurd hn (by decide)

/-- BBC and BBS on a zero page byte in unimplemented memory (R263, R264). -/
theorem bitBranchZpOp_stops (b : Bool) (i : BitNo) {zz : Byte} (rr : Byte)
    (hk : s.kindAt (zext16 zz) = .unimplemented) :
    bitBranchZpOp b i zz rr s = .error (.unimplementedAddress (zext16 zz)) :=
  Res.bind_of_error (State.read_stops (s := s.advance 3) hk)

@[simp] theorem State.atBoundary_lastWrites (s : State) : s.atBoundary.lastWrites = s.lastWrites := by
  obtain ⟨is, ls, h, -⟩ := s.atBoundary_eq; rw [h]; rfl

/-- The fetch of an operation code from unimplemented memory stops the step (R73, R87). -/
theorem step_fetch_stops (h : s.executesNext) (hk : s.kindAt s.pc = .unimplemented) (hfresh : s.pc ∉ s.lastWrites) :
    step s = .fault (.unimplementedAddress s.pc) := by
  have hread : s.atBoundary.read s.pc = .error (.unimplementedAddress s.pc) :=
    State.read_stops (by rwa [State.atBoundary_kindAt])
  have hbyte : s.atBoundary.fetchByte s.pc = s.atBoundary.read s.pc :=
    (fetchOfAByteJustStored _ _).2 (by rwa [State.atBoundary_lastWrites])
  exact step_of_fetch_stops h (Res.bind_of_error (by rw [State.atBoundary_pc, hbyte, hread]))

/-- Settles O57: the first read of the address stops, and with it what it begins. -/
theorem unimplementedReadStops : Obligations.UnimplementedReadStops := by
  intro s a hk
  refine ⟨State.read_stops hk, fun i n m u hview hn hea => ?_, fun zz rr k ha => ?_,
    fun i n o v u hview hn ht ha hoperand => ?_, fun ha => ?_, fun hnext hpc hfresh => ?_⟩
  · exact exec_of_course_stops hview (operand_course_stops hn hea hk)
  · subst ha
    simp only [List.forall_mem_cons]
    exact ⟨congrArg finish (bitBranchZpOp_stops false k rr hk), congrArg finish (bitBranchZpOp_stops true k rr hk),
      congrArg finish (bitZpOp_stops false k (.inl ⟨hk, rfl⟩)),
      congrArg finish (bitZpOp_stops true k (.inl ⟨hk, rfl⟩)), by simp⟩
  · subst ha
    refine exec_of_course_stops hview ?_
    by_cases hcmp : n = .cmp
    · subst hcmp
      rw [← Form.src_ofSrc o] at hoperand
      exact cmpOp_stops hoperand ht hk
    · exact dest_course_stops hoperand ht (.inl ⟨hk, rfl⟩) (by simp_all)
  · subst ha
    have hpull := State.pull_stops (s := s.advance 1) hk
    simp only [List.forall_mem_cons]
    exact ⟨congrArg finish (Res.bind_of_error hpull), congrArg finish (Res.bind_of_error hpull),
      congrArg finish (Res.bind_of_error (Res.bind_of_error hpull)), congrArg finish (Res.bind_of_error hpull),
      by simp⟩
  · subst hpc
    exact step_fetch_stops hnext hk hfresh

/-- Settles O58: the store stops, or the read of the same address before it. -/
theorem unwritableStoreStops : Obligations.UnwritableStoreStops := by
  intro s a f h
  change s.storeStops a f at h
  refine ⟨State.write_stops h, fun i n m u hview hn hea => ?_, fun nn zz k ha => ?_,
    fun i n o v u hview hn ht ha hoperand => ?_, fun hhll zz ll ha => ?_⟩
  · exact exec_of_course_stops hview (store_course_stops hn hea h)
  · subst ha
    simp only [List.forall_mem_cons]
    exact ⟨congrArg finish (State.write_stops (s := s.advance 3) h nn), congrArg finish (bitZpOp_stops false k h),
      congrArg finish (bitZpOp_stops true k h), by simp⟩
  · subst ha
    exact exec_of_course_stops hview (dest_course_stops hoperand ht h hn)
  · subst ha
    have hpush := State.push_stops (s := s.advance 1) h
    simp only [List.forall_mem_cons]
    exact ⟨congrArg finish (hpush _), congrArg finish (hpush _),
      congrArg finish (State.softwareInterrupt_stops (s := s.advance 2) h), congrArg finish (jsrOp_stops h _ _),
      congrArg finish (jsrOp_stops h _ _), congrArg finish (jsrOp_stops h _ _), by simp⟩

end Sys2Proof.Machine
end

section
/-!
PROOFS. The encoder gives back the bytes the decoder reads, row by row of the operation code table; the codes that
begin no instruction, in the table and on a product without MUL and DIV (R101, R102, R111 to R113).
-/

namespace Sys2Proof

/-! ### The rows of the table -/

/-- The encoder undoes what a row makes of the operation code `op`: the shapes a row can have, by the number of its
operand bytes and whether two of them are one 16-bit operand or the operation code holds a bit number (R101, R102). -/
inductive Build.EncodesAs (op : Byte) : Build → Prop where
  | one {i : Instr} (h : encode i = [op]) : EncodesAs op (.one i)
  | oneBit {f : BitNo → Instr} (h : encode (f (bitField op)) = [op]) : EncodesAs op (.oneBit f)
  | two {f : Byte → Instr} (h : ∀ b, encode (f b) = [op, b]) : EncodesAs op (.two f)
  | twoBit {f : BitNo → Byte → Instr} (h : ∀ b, encode (f (bitField op) b) = [op, b]) : EncodesAs op (.twoBit f)
  | abs {f : Addr → Instr} (h : ∀ hhll, encode (f hhll) = [op, lowByte hhll, highByte hhll]) :
      EncodesAs op (.three fun ll hh => f (joinBytes hh ll))
  | three {f : Byte → Byte → Instr} (h : ∀ b c, encode (f b c) = [op, b, c]) : EncodesAs op (.three f)
  | threeBit {f : BitNo → Byte → Byte → Instr} (h : ∀ b c, encode (f (bitField op) b c) = [op, b, c]) :
      EncodesAs op (.threeBit f)

/-- The bytes such a row reads are those of the instruction it makes, and the bytes it leaves over. -/
theorem Build.EncodesAs.encode_of_apply {op : Byte} {b : Build} {bs rest : List Byte} {i : Instr}
    (henc : b.EncodesAs op) (h : b.apply op bs = .ok (i, rest)) : op :: bs = encode i ++ rest := by
  cases henc with
  | one henc | oneBit henc =>
    cases h
    simp [henc]
  | two henc | twoBit henc =>
    cases bs with
    | nil => cases h
    | cons b bs => cases h; simp [henc]
  | abs henc | three henc | threeBit henc =>
    match bs with
    | [] | [_] => cases h
    | b :: c :: bs => cases h; simp [henc]

/-- A byte whose low-order five bits are `k` is the bit-field operation code of its bit number and `k` (R102). -/
theorem bitOp_bitField {op : Byte} {k : BitVec 5} (h : op &&& 0x1F = k.setWidth 8) :
    bitOp (bitField op) k = op := by
  have hk : op.extractLsb' 0 5 = k := by
    rw [← bitOp_fields op, bitOp_mask] at h
    simpa using congrArg (BitVec.setWidth 5) h
  rw [← hk, bitOp_fields]

/-- The bit-field rows stand for one instruction with each of the eight operation codes they match (R102). -/
theorem opTableBits_encodesAs :
    ∀ r ∈ opTableBits, ∀ op, op &&& r.mask = r.code → r.build.EncodesAs op := by
  simp only [opTableBits, List.forall_mem_cons]
  exact ⟨
    fun _ h => .twoBit fun b => congrArg (fun op => [op, b]) (bitOp_bitField (k := 0x03) h),
    fun _ h => .threeBit fun b c => congrArg (fun op => [op, b, c]) (bitOp_bitField (k := 0x07) h),
    fun _ h => .oneBit (congrArg (fun op => [op]) (bitOp_bitField (k := 0x0B) h)),
    fun _ h => .twoBit fun b => congrArg (fun op => [op, b]) (bitOp_bitField (k := 0x0F) h),
    fun _ h => .twoBit fun b => congrArg (fun op => [op, b]) (bitOp_bitField (k := 0x13) h),
    fun _ h => .threeBit fun b c => congrArg (fun op => [op, b, c]) (bitOp_bitField (k := 0x17) h),
    fun _ h => .oneBit (congrArg (fun op => [op]) (bitOp_bitField (k := 0x1B) h)),
    fun _ h => .twoBit fun b => congrArg (fun op => [op, b]) (bitOp_bitField (k := 0x1F) h),
    fun _ h => nomatch h⟩

/-- The row stands for one operation code, and for the instruction the encoder gives that code (R111). -/
def OpRow.Single (r : OpRow) : Prop := r.mask = 0xFF ∧ r.build.EncodesAs r.code

theorem OpRow.Single.encodesAs {r : OpRow} (hr : r.Single) {op : Byte} (h : op &&& r.mask = r.code) :
    r.build.EncodesAs op := by
  obtain ⟨hmask, henc⟩ := hr
  have hop : op &&& 0xFF = op := BitVec.and_allOnes
  rw [hmask, hop] at h
  rwa [h]

/-- The rows after the bit-field rows stand for one operation code each: the shape of `EncodesAs` follows from the
row's constructor, and its encoding by evaluation (R111). -/
theorem opTable_single : (opTable.drop opTableBits.length).Forall OpRow.Single := by
  repeat' constructor
  all_goals intros; rfl

/-- Every row stands for one instruction with each operation code it matches (R102, R111). -/
theorem opTable_encodesAs {r : OpRow} (hr : r ∈ opTable) {op : Byte} (h : op &&& r.mask = r.code) :
    r.build.EncodesAs op := by
  have hsplit : opTable = opTableBits ++ opTable.drop opTableBits.length := rfl
  rw [hsplit, List.mem_append] at hr
  rcases hr with hbits | hsingle
  · exact opTableBits_encodesAs r hbits op h
  · exact (List.forall_iff_forall_mem.mp opTable_single r hsingle).encodesAs h

/-- The row an operation code selects is a row of the table that matches it (R103). -/
theorem opRow_some {op : Byte} {r : OpRow} (h : opRow op = some r) : r ∈ opTable ∧ op &&& r.mask = r.code :=
  ⟨List.mem_of_find?_eq_some h, by simpa using List.find?_some h⟩

/-! ### The round trip -/

/-- Settles O1: the decoder finds the row of each instruction and joins its operand bytes again. -/
theorem decodeEncode : Obligations.DecodeEncode := decode_encode

/-- Settles O2: the bytes are read by a row of the table, and the encoder undoes every row. -/
theorem encodeDecode : Obligations.EncodeDecode := by
  intro bs rest i h
  cases bs with
  | nil => cases h
  | cons op bs =>
    unfold decode at h
    dsimp only at h
    split at h
    · cases h
    · rename_i r hrow
      obtain ⟨hmem, hmatch⟩ := opRow_some hrow
      exact (opTable_encodesAs hmem hmatch).encode_of_apply h

/-- Settles O4: the words are encodings of the instructions, byte for byte. -/
theorem sampleWordsDecode : Obligations.SampleWordsDecode :=
  ⟨decode_encode (.adcAbs 0xAD12) [], decode_encode (.ldm 0x5A 0x10) [], decode_encode (.clbZp 5 0x44) [],
    decode_encode (.bbcZp 5 0x04 0xF1) [], decode_encode .rolAcc [], decode_encode (.bcc 0xF2) [],
    decode_encode (.jsrSp 0xC0) [], decode_encode .clc []⟩

end Sys2Proof

namespace Sys2Proof.Machine

/-! ### Operation codes that begin no instruction -/

/-- The codes no row of the table matches are the 25 of R112: all 256 bytes are looked up. -/
theorem opLength_eq_none_iff (op : Byte) : Sys2Proof.opLength op = none ↔ op ∈ undefinedOpcodes := by
  revert op
  decide

/-- A code the table does not have begins no instruction on any product (R112). -/
theorem State.opLength_of_undefined (s : State) {op : Byte} (h : op ∈ undefinedOpcodes) :
    s.opLength op = none := by
  rcases s.opLength_cases op with htable | ⟨-, -, habsent⟩
  · exact htable.trans ((opLength_eq_none_iff op).mpr h)
  · exact habsent

/-- The codes of MUL and DIV begin no instruction on a product without them (R113). -/
theorem State.opLength_of_absent {s : State} (habsent : s.cfg.hasMulDiv = false) {op : Byte}
    (hop : op = 0x62 ∨ op = 0xE2) : s.opLength op = none := by
  rcases hop with rfl | rfl <;> simp [State.opLength, habsent]

/-- A fetched code that begins no instruction on this product stops the fetch, and the code's byte is all that is
read (R112, R113). -/
theorem State.fetch_of_undefined {s u : State} {op : Byte} (hbyte : s.fetchByte s.pc = .ok (op, u))
    (hcode : s.opLength op = none) : s.fetch = .error (.undefinedOpcode op) := by
  obtain ⟨k, rfl⟩ := State.fetchByte_onlyDraws hbyte
  have hlen : (s.draw k).opLength op = none := hcode
  unfold State.fetch
  rw [Res.bind_of_ok hbyte]
  dsimp only
  rw [hlen]

/-- So does the step at whose boundary it is fetched (R112, R113). -/
theorem step_of_undefined {s u : State} {op : Byte} (hnext : s.executesNext)
    (hbyte : s.atBoundary.fetchByte s.pc = .ok (op, u)) (hcode : s.atBoundary.opLength op = none) :
    step s = .fault (.undefinedOpcode op) := by
  rw [← State.atBoundary_pc] at hbyte
  exact step_of_fetch_stops hnext (State.fetch_of_undefined hbyte hcode)

/-- Settles O3: the table's rows leave these codes out, and the fetch of one stops. -/
theorem undefinedOperationCodes : Obligations.UndefinedOperationCodes :=
  ⟨opLength_eq_none_iff, fun s _ _ hnext hop hbyte =>
    step_of_undefined hnext hbyte (s.atBoundary.opLength_of_undefined hop)⟩

/-- Settles O26: execution stops with the code, as the fetch does before it reads another byte. -/
theorem productWithoutMultiply : Obligations.ProductWithoutMultiply := by
  intro s zz habsent
  refine ⟨exec_of_absent (bs := [zz]) habsent (.inl rfl) rfl, exec_of_absent (bs := [zz]) habsent (.inr rfl) rfl,
    fun op u hop hnext hbyte => step_of_undefined hnext hbyte (State.opLength_of_absent ?_ hop)⟩
  rwa [State.atBoundary_cfg]

end Sys2Proof.Machine
end

section
/-!
PROOFS. The addressing modes: effective addresses as numbers, the operand read, and the pointers in the zero page
(R131 to R137, R140, R141, R143, R151, R153).
-/

namespace Sys2Proof.Machine

/-! ### Addresses as numbers -/

/-- A zero page address is its offset (R105, R132). -/
@[simp] theorem zext16_toNat (v : Byte) : (zext16 v).toNat = v.toNat := by
  simp [zext16, joinBytes_toNat]

/-- The sum of two bytes as a zero page address wraps inside the zero page (R133, R134). -/
theorem zext16_add_toNat (v w : Byte) : (zext16 (v + w)).toNat = (v.toNat + w.toNat) % 256 := by
  rw [zext16_toNat, BitVec.toNat_add]

/-- A byte added to an address wraps past FFFF (R136, R137, D4). -/
theorem add_zext16_toNat (a : Addr) (v : Byte) : (a + zext16 v).toNat = (a.toNat + v.toNat) % 65536 := by
  rw [BitVec.toNat_add, zext16_toNat]

/-- The location after a zero page offset is in the zero page or at 0100, by `ZP_PTR_WRAP` (R153, D5). -/
theorem State.nextZp_toNat (s : State) (p : Byte) :
    (s.nextZp p).toNat = if s.cfg.zpPtrWrap then (p.toNat + 1) % 256 else p.toNat + 1 := by
  unfold State.nextZp
  split
  · exact zext16_add_toNat p 1
  · have hp := p.isLt
    have hnext : (zext16 p + 1).toNat = ((zext16 p).toNat + 1) % 65536 := add_zext16_toNat (zext16 p) 1
    rw [hnext, zext16_toNat]
    omega

/-! ### Direct modes -/

/-- An operand at a plain address is the byte held there (R151). -/
theorem State.operand_of_plain {s u : State} {m : MemMode} {a : Addr} (hea : s.ea m = .ok (a, u))
    (hplain : s.isPlain a) : s.operand (.mem m) = .ok (s.peek a, u) := by
  obtain ⟨k, rfl⟩ := State.ea_onlyDraws hea
  have hread : (s.draw k).read a = .ok (s.peek a, s.draw k) := State.read_plain (s := s.draw k) hplain
  exact (Res.bind_of_ok hea).trans hread

/-- Settles O9: each direct mode's address is a sum of bytes or of an address and a byte. -/
theorem directOperands : Obligations.DirectOperands := fun s zz _ hhll =>
  ⟨⟨_, rfl, zext16_toNat zz⟩, ⟨_, rfl, zext16_add_toNat zz s.x⟩, ⟨_, rfl, zext16_add_toNat zz s.y⟩, rfl,
    ⟨_, rfl, add_zext16_toNat hhll s.x⟩, ⟨_, rfl, add_zext16_toNat hhll s.y⟩, rfl,
    fun _ _ _ => State.operand_of_plain⟩

/-! ### Indirect modes -/

/-- A pointer in plain memory is made of the bytes at its two locations (R140, R141, R143). -/
theorem State.zpPointer_of_plain {s : State} {p : Byte} (hlo : s.isPlain (zext16 p))
    (hhi : s.isPlain (s.nextZp p)) :
    s.zpPointer p = .ok (joinBytes (s.peek (s.nextZp p)) (s.peek (zext16 p)), s) := by
  unfold State.zpPointer
  rw [Res.bind_of_ok (State.read_plain hlo)]
  dsimp only
  rw [Res.bind_of_ok (State.read_plain hhi)]
  rfl

/-- Indirect Y adds Y to the pointer (R141). -/
theorem State.ea_indY {s u : State} {zz : Byte} {q : Addr} (h : s.zpPointer zz = .ok (q, u)) :
    s.ea (.indY zz) = .ok (q + zext16 u.y, u) :=
  Res.bind_of_ok h

/-- Settles O10: both modes take their address from the pointer at the offset, Indirect Y with Y added. -/
theorem indirectOperands : Obligations.IndirectOperands := by
  intro s zz p
  refine ⟨s.nextZp_toNat p, fun hlo hhi => ?_⟩
  have hpointer := State.zpPointer_of_plain hlo hhi
  refine ⟨_, joinBytes_toNat _ _, hpointer, ?_, ?_⟩
  · rintro rfl
    exact hpointer
  · rintro rfl
    exact ⟨_, State.ea_indY hpointer, add_zext16_toNat _ _⟩

end Sys2Proof.Machine
end

section
/-!
PROOFS. Data transfer: loads, stores, register transfers and the stack instructions, from what a write to a register,
to the destination A or M(X), to memory and to the stack does (R152, R160 to R177).
-/

namespace Sys2Proof.Machine

variable {s t u : State} {R R' : List Reg} {F F' : List Flag} {as bs : List Addr} {a : Addr} {v : Byte}

/-! ### Frames -/

/-- One change after another touches what either of them does. -/
theorem Leaves.trans (h : Leaves s t R F as) (h' : Leaves t u R' F' bs) :
    Leaves s u (R ++ R') (F ++ F') (as ++ bs) := by
  obtain ⟨hregs, hflags, hpeek, hlines, hrun, hcfg, hinputs⟩ := h
  obtain ⟨hregs', hflags', hpeek', hlines', hrun', hcfg', hinputs'⟩ := h'
  simp only [Leaves, List.mem_append, not_or]
  refine ⟨fun r hr => (hregs' r hr.2).trans (hregs r hr.1), fun f hf => (hflags' f hf.2).trans (hflags f hf.1),
    fun b hb => (hpeek' b hb.2).trans (hpeek b hb.1), fun hreach => ?_, hrun'.trans hrun, hcfg'.trans hcfg,
    hinputs'.trans hinputs⟩
  have hfirst : t.lines = s.lines := hlines fun l hl b hb => hreach l hl b (.inl hb)
  have hsecond : u.lines = t.lines := hlines' fun l hl b hb => hreach l (hfirst ▸ hl) b (.inr hb)
  exact hsecond.trans hfirst

/-- Where nothing is stored, what an operation changes is its frame. -/
theorem Changes.leaves {late : Bool} (h : Changes s t R F false late) : Leaves s t R F [] := by
  obtain ⟨hmem, hlines, -⟩ := h.mem rfl
  exact ⟨h.regs, h.flags, fun b _ => by simp only [State.peek, hmem], fun _ => hlines, h.run, h.keeps.cfg,
    h.keeps.inputs⟩

/-- Moving PC past the instruction is in no frame (R160). -/
theorem Leaves.advance (s : State) (n : Nat) : Leaves s (s.advance n) [] [] [] :=
  (Changes.advance s n).leaves

/-- Setting A changes A alone. -/
theorem State.setA_leaves (s : State) (v : Byte) : Leaves s (s.setA v) [.a] [] [] := by
  refine ⟨fun r hr => ?_, fun _ _ => rfl, fun _ _ => rfl, fun _ => rfl, rfl, rfl, rfl⟩
  cases r with
  | a => exact absurd (List.mem_singleton_self _) hr
  | _ => rfl

/-- `SetNZ` changes N and Z alone (R11). -/
theorem Leaves.setNZ (h : Leaves s t R [] as) (v : Byte) : Leaves s (t.setNZ v) R [.n, .z] as := by
  obtain ⟨hregs, hflags, hrest⟩ := h
  refine ⟨fun r hr => (by cases r <;> rfl : (t.setNZ v).reg r = t.reg r).trans (hregs r hr), fun f hf => ?_, hrest⟩
  obtain ⟨hn, hz⟩ : f ≠ .n ∧ f ≠ .z := by simpa using hf
  rw [State.flag_setNZ, if_neg hz, if_neg hn]
  exact hflags f (by simp)

/-! ### N and Z -/

/-- After `SetNZ` the flags N and Z say of the byte what it says (R11). -/
theorem State.setNZ_shows (s : State) (v : Byte) : ShowsNZ (s.setNZ v) v :=
  ⟨State.flag_setNZ s v .n, State.flag_setNZ s v .z⟩

@[simp] theorem State.setNZ_reg (s : State) (v : Byte) (r : Reg) : (s.setNZ v).reg r = s.reg r := by
  cases r <;> rfl

/-- N and Z are no part of what the destination takes (R152). -/
theorem DestGets.setNZ (h : DestGets s t v) (w : Byte) : DestGets s (t.setNZ w) v := h

/-! ### A write to a register -/

/-- `put` writes the register `r` and nothing else. -/
structure PutsReg (put : State → Byte → State) (r : Reg) : Prop where
  gets : ∀ s v, (put s v).reg r = v
  pc : ∀ s v, (put s v).pc = s.pc
  changes : ∀ {s u : State} (v : Byte), Changes s u [] [] false false → Changes s (put u v) [r] [] false false

theorem setA_putsReg : PutsReg State.setA .a := ⟨fun _ _ => rfl, fun _ _ => rfl, fun v h => h.setA v⟩

theorem setX_putsReg : PutsReg State.setX .x := ⟨fun _ _ => rfl, fun _ _ => rfl, fun v h => h.setX v⟩

theorem setY_putsReg : PutsReg State.setY .y := ⟨fun _ _ => rfl, fun _ _ => rfl, fun v h => h.setY v⟩

section
variable {put : State → Byte → State} {r : Reg} (hput : PutsReg put r)
include hput

/-- LDX and LDY: the operand goes to the register (R163, R164). -/
theorem loadOp_loads {o : Src} (hoperand : s.operand o = .ok (v, u)) :
    ∃ t, loadOp put o s = .ok t ∧ t.reg r = v ∧ ShowsNZ t v ∧ PassedBy s t o.len ∧ Leaves s t [r] [.n, .z] [] := by
  obtain ⟨k, hoperand⟩ := operand_after_advance o.len hoperand
  have hload : loadOp put o s = .ok ((put ((s.advance o.len).draw k) v).setNZ v) := Res.bind_of_ok hoperand
  exact ⟨_, hload, (State.setNZ_reg _ v r).trans (hput.gets _ v), State.setNZ_shows _ v, hput.pc _ v,
    (loadOp_changes hput.changes hload).leaves⟩

/-- A register transfer, and X or Y counted up or down: the value goes to the register (R168 to R172, R198 to
R201). -/
theorem registerOp_gets (s : State) (v : Byte) :
    (registerOp put v s).reg r = v ∧ ShowsNZ (registerOp put v s) v ∧ PassedBy s (registerOp put v s) 1 ∧
      Leaves s (registerOp put v s) [r] [.n, .z] [] :=
  ⟨(State.setNZ_reg _ v r).trans (hput.gets _ v), State.setNZ_shows _ v, hput.pc _ v,
    (registerOp_changes hput.changes v).leaves⟩

end

/-! ### A store -/

/-- A store leaves PC. -/
theorem State.write_pc (h : s.write a v = .ok t) : t.pc = s.pc := by
  rcases State.write_ok h with ⟨_, rfl⟩ | ⟨_, rfl⟩ | ⟨_, rfl⟩ <;> rfl

/-- A store to a writable address completes, with its byte stored and nothing else changed (R71, U10). -/
theorem State.write_of_writable (v : Byte) (h : s.writable a) :
    ∃ t, s.write a v = .ok t ∧ Stores s t a v ∧ t.pc = s.pc ∧ Leaves s t [] [] [a] := by
  obtain ⟨_, _, _, _, hwrite, -⟩ := State.write_completes v h
  exact ⟨_, hwrite, State.write_stores hwrite, State.write_pc hwrite, State.write_leaves hwrite⟩

/-- A store in the course of an instruction: PC has moved past it and `k` values have been drawn (R160). -/
theorem advance_write_stores (n k : Nat) (v : Byte) (h : s.writable a) :
    ∃ t, ((s.advance n).draw k).write a v = .ok t ∧ Stores s t a v ∧ PassedBy s t n ∧ Leaves s t [] [] [a] := by
  obtain ⟨t, hwrite, hstores, hpc, hleaves⟩ := State.write_of_writable (s := (s.advance n).draw k) v h
  exact ⟨t, hwrite, hstores, hpc, ((Leaves.advance s n).draw k).trans hleaves⟩

/-- STA, STX and STY: the register `get` reads is stored at the effective address (R165 to R167). -/
theorem storeOp_stores (get : State → Byte) {m : MemMode} (hea : s.ea m = .ok (a, u)) (h : s.writable a) :
    ∃ t, storeOp get m s = .ok t ∧ Stores s t a (get s) ∧ PassedBy s t m.len ∧ Leaves s t [] [] [a] := by
  obtain ⟨k, -, hea⟩ := (SameView.advance s m.len).ea hea
  obtain ⟨t, hwrite, hstored⟩ := advance_write_stores m.len k (get s) h
  exact ⟨t, (Res.bind_of_ok hea).trans hwrite, hstored⟩

/-! ### The destination A or M(X) -/

/-- A result for a destination that can be written arrives there and nowhere else (R152). -/
theorem State.destWrite_gets (v : Byte) (h : s.destWritable) :
    ∃ t, s.destWrite v = .ok t ∧ DestGets s t v ∧ t.pc = s.pc ∧ Leaves s t s.destRegs [] s.destBytes := by
  unfold State.destWrite DestGets State.destRegs State.destBytes
  split
  · next ht => exact State.write_of_writable v (h ht)
  · exact ⟨s.setA v, rfl, rfl, rfl, s.setA_leaves v⟩

/-- LDA: the operand goes to A or M(X) (R161). -/
theorem ldaOp_loads {o : Src} (hoperand : s.operand o = .ok (v, u)) (h : s.destWritable) :
    ∃ t, ldaOp o s = .ok t ∧ DestGets s t v ∧ ShowsNZ t v ∧ PassedBy s t o.len ∧
      Leaves s t s.destRegs [.n, .z] s.destBytes := by
  obtain ⟨k, hoperand⟩ := operand_after_advance o.len hoperand
  obtain ⟨t, hwrite, hgets, hpc, hleaves⟩ := State.destWrite_gets (s := (s.advance o.len).draw k) v h
  have hframe : Leaves s t s.destRegs [] s.destBytes := ((Leaves.advance s o.len).draw k).trans hleaves
  exact ⟨t.setNZ v, (Res.bind_of_ok hoperand).trans (Res.bind_of_ok hwrite), hgets.setNZ v, t.setNZ_shows v, hpc,
    hframe.setNZ v⟩

/-! ### The stack -/

/-- A push leaves PC. -/
theorem State.push_pc (h : s.push v = .ok t) : t.pc = s.pc := by
  obtain ⟨w, hwrite, rfl⟩ := State.push_ok.mp h
  have hpc : w.pc = s.pc := State.write_pc hwrite
  exact hpc

/-- A push in the course of an instruction (R37, R160). -/
theorem advance_push_stores (n : Nat) (v : Byte) (h : s.writable s.stackAddr) :
    ∃ t, (s.advance n).push v = .ok t ∧ Stores s t (s.stackAt s.sp) v ∧ t.sp = s.sp - 1 ∧ PassedBy s t n ∧
      Leaves s t [.sp] [] [s.stackAt s.sp] := by
  obtain ⟨t, hpush, hstores, hsp, hleaves⟩ := State.push_stores (s := s.advance n) v h
  exact ⟨t, hpush, hstores, hsp, State.push_pc hpush, (Leaves.advance s n).trans hleaves⟩

/-- A pull in the course of an instruction, and the state it leaves (R38, R160). -/
theorem advance_pull (n : Nat) (h : s.read (s.stackAt (s.sp + 1)) = .ok (v, u)) :
    ∃ k, (s.advance n).pull = .ok (v, ((s.advance n).setSp (s.sp + 1)).draw k) := by
  have hview : SameView s ((s.advance n).setSp (s.sp + 1)) := ⟨rfl, rfl, rfl, rfl, rfl, rfl⟩
  obtain ⟨k, -, hread⟩ := hview.read h
  exact ⟨k, hread⟩

/-- PLA: the byte pulled goes to A (R176). -/
theorem plaOp_pulls (h : s.read (s.stackAt (s.sp + 1)) = .ok (v, u)) :
    ∃ t, plaOp s = .ok t ∧ t.a = v ∧ t.sp = s.sp + 1 ∧ ShowsNZ t v ∧ PassedBy s t 1 ∧
      Leaves s t [.a, .sp] [.n, .z] [] := by
  obtain ⟨k, hpull⟩ := advance_pull 1 h
  have hpla : plaOp s = .ok (((((s.advance 1).setSp (s.sp + 1)).draw k).setA v).setNZ v) := Res.bind_of_ok hpull
  exact ⟨_, hpla, rfl, rfl, State.setNZ_shows _ v, rfl, (plaOp_changes hpla).leaves⟩

/-- PLP: the byte pulled becomes PS (R177). -/
theorem plpOp_pulls (h : s.read (s.stackAt (s.sp + 1)) = .ok (v, u)) :
    ∃ t, plpOp s = .ok t ∧ t.sp = s.sp + 1 ∧ (∀ f : Flag, t.flag f = bitOf v f.pos) ∧ PassedBy s t 1 ∧
      Leaves s t [.sp] [.c, .z, .i, .d, .b, .t, .v, .n] [] := by
  obtain ⟨k, hpull⟩ := advance_pull 1 h
  have hplp : plpOp s = .ok ((((s.advance 1).setSp (s.sp + 1)).draw k).setPs (Status.ofByte v)) :=
    Res.bind_of_ok hpull
  exact ⟨_, hplp, rfl, Status.get_ofByte v, rfl, (plpOp_changes hplp).leaves⟩

/-! ### The statements -/

/-- An instruction whose course completes in a state. -/
theorem exec_of_course {i : Instr} {n : Mnemonic} {form : Form} (hview : i.view = (n, form))
    (h : course s n form = .ok t) : exec i s = .next t := by
  rw [exec_of_view hview]
  exact finish_next.mpr h

/-- Settles O11: whichever form LDA has, its operand is read past the instruction and goes to the destination. -/
theorem loadAccumulator : Obligations.LoadAccumulator := by
  intro s u i o v hview hoperand hwritable
  obtain ⟨t, hlda, hloaded⟩ := ldaOp_loads hoperand hwritable
  rw [← Form.src_ofSrc o] at hlda
  exact ⟨t, exec_of_course hview hlda, hloaded⟩

/-- Settles O12: LDX and LDY are one operation, with X or Y for its register. -/
theorem loadIndexRegister : Obligations.LoadIndexRegister := by
  intro s u i o v r hcase hoperand
  rcases hcase with ⟨hview, rfl⟩ | ⟨hview, rfl⟩
  · obtain ⟨t, hldx, hloaded⟩ := loadOp_loads setX_putsReg hoperand
    rw [← Form.src_ofSrc o] at hldx
    exact ⟨t, exec_of_course hview hldx, hloaded⟩
  · obtain ⟨t, hldy, hloaded⟩ := loadOp_loads setY_putsReg hoperand
    rw [← Form.src_ofSrc o] at hldy
    exact ⟨t, exec_of_course hview hldy, hloaded⟩

/-- Settles O13: STA, STX and STY are one operation on three registers; LDM stores its immediate byte. -/
theorem storeInstructions : Obligations.StoreInstructions := by
  refine ⟨fun s u i m a r hcase hea hwritable => ?_, fun s nn zz hwritable => ?_⟩
  · obtain ⟨t, hstore, hstored⟩ := storeOp_stores (fun s => s.reg r) hea hwritable
    refine ⟨t, ?_, hstored⟩
    rcases hcase with ⟨hview, rfl⟩ | ⟨hview, rfl⟩ | ⟨hview, rfl⟩ <;> exact exec_of_course hview hstore
  · obtain ⟨t, hldm, hstored⟩ := advance_write_stores 3 0 nn hwritable
    exact ⟨t, exec_of_course (i := .ldm nn zz) rfl hldm, hstored⟩

/-- Settles O14: five transfers write one register with N and Z, and TXS writes S alone. -/
theorem registerTransfers : Obligations.RegisterTransfers := by
  intro s
  refine ⟨fun i r v hmem => ?_, (s.advance 1).setSp s.x, rfl, rfl, rfl, (Leaves.advance s 1).setSp s.x⟩
  simp only [List.mem_cons, List.not_mem_nil, or_false, Prod.mk.injEq] at hmem
  rcases hmem with ⟨rfl, rfl, rfl⟩ | ⟨rfl, rfl, rfl⟩ | ⟨rfl, rfl, rfl⟩ | ⟨rfl, rfl, rfl⟩ | ⟨rfl, rfl, rfl⟩
  · exact ⟨_, rfl, registerOp_gets setX_putsReg s s.a⟩
  · exact ⟨_, rfl, registerOp_gets setA_putsReg s s.x⟩
  · exact ⟨_, rfl, registerOp_gets setY_putsReg s s.a⟩
  · exact ⟨_, rfl, registerOp_gets setA_putsReg s s.y⟩
  · exact ⟨_, rfl, registerOp_gets setX_putsReg s s.sp⟩

/-- Settles O15: both are one push; PS as a byte has each flag at its bit. -/
theorem pushInstructions : Obligations.PushInstructions := by
  intro s hwritable
  obtain ⟨t, hpha, hpushed⟩ := advance_push_stores 1 s.a hwritable
  obtain ⟨t', hphp, hstores, hsp, hpassed, hleaves⟩ := advance_push_stores 1 s.ps.toByte hwritable
  exact ⟨⟨t, exec_of_course (i := .pha) rfl hpha, hpushed⟩,
    t', s.ps.toByte, exec_of_course (i := .php) rfl hphp, hstores, hsp, Status.bitOf_toByte s.ps, hpassed, hleaves⟩

/-- Settles O16: the byte pulled goes to A, or each of its bits to its flag. -/
theorem pullInstructions : Obligations.PullInstructions := by
  intro s u v hread
  obtain ⟨t, hpla, hpulled⟩ := plaOp_pulls hread
  obtain ⟨t', hplp, hpulled'⟩ := plpOp_pulls hread
  exact ⟨⟨t, exec_of_course (i := .pla) rfl hpla, hpulled⟩, t', exec_of_course (i := .plp) rfl hplp, hpulled'⟩

end Sys2Proof.Machine
end

section
/-!
PROOFS. The numbers of arithmetic: the binary and the decimal adders, the product and the division (R190 to R193, R202,
R203).
-/

namespace Sys2Proof.Machine

/-! ### Bytes as numbers -/

/-- Bit 7 of a byte is its sign. -/
theorem bitOf_seven (v : Byte) : bitOf v 7 = decide (128 ≤ v.toNat) :=
  (BitVec.msb_eq_getLsbD_last v).symm.trans (BitVec.msb_eq_decide v)

/-- A byte as a signed number. -/
theorem byte_toInt (v : Byte) : v.toInt = if 128 ≤ v.toNat then (v.toNat : Int) - 256 else v.toNat := by
  rw [BitVec.toInt_eq_toNat_cond]
  split <;> split <;> omega

/-- One's complement of a byte as a signed number. -/
theorem byte_toInt_not (v : Byte) : (~~~v).toInt = -1 - v.toInt := by
  have hv := v.isLt
  have hnot : (~~~v).toNat = 255 - v.toNat := BitVec.toNat_not
  rw [byte_toInt, byte_toInt, hnot]
  split <;> split <;> omega

theorem bitOf_and (v w : Byte) (i : Nat) : bitOf (v &&& w) i = (bitOf v i && bitOf w i) :=
  BitVec.getLsbD_and

theorem bitOf_xor (v w : Byte) (i : Nat) : bitOf (v ^^^ w) i = (bitOf v i ^^ bitOf w i) :=
  BitVec.getLsbD_xor

theorem bitOf_not (v : Byte) {i : Nat} (h : i < 8) : bitOf (~~~v) i = !bitOf v i := by
  simp [bitOf, h]

theorem signedOverflow_iff (k : Int) : signedOverflow k = true ↔ k < -128 ∨ 127 < k := by
  simp [signedOverflow, or_comm]

theorem carryNat_le_one (c : Bool) : carryNat c ≤ 1 := by cases c <;> decide

/-- The borrow is the complement of the carry (R192). -/
theorem carryNat_not (c : Bool) : carryNat (!c) = 1 - carryNat c := by cases c <;> rfl

/-! ### Binary addition and subtraction -/

section
variable (a m : Byte) (c : Bool)

theorem addBin_r_toNat : (addBin a m c).r.toNat = (a.toNat + m.toNat + carryNat c) % 256 :=
  BitVec.toNat_ofNat _ _

/-- The result of a subtraction is the difference modulo 256 (R192). -/
theorem subBin_r_toNat :
    ((subBin a m c).r.toNat : Int) = ((a.toNat : Int) - m.toNat - carryNat (!c)) % 256 := by
  have hr : (subBin a m c).r.toNat = (((a.toNat : Int) - m.toNat - (1 - carryNat c : Nat)) % 256).toNat :=
    BitVec.toNat_ofInt _
  rw [hr, carryNat_not]
  omega

/-- C after a subtraction is the complement of its borrow (R192). -/
theorem subBin_c : (subBin a m c).c = decide (m.toNat + carryNat (!c) ≤ a.toNat) := by
  have hc := carryNat_le_one c
  refine decide_eq_decide.mpr ?_
  rw [carryNat_not]
  omega

/-- V after a subtraction is the overflow of the signed difference (R192). -/
theorem subBin_v_iff : (subBin a m c).v = true ↔
    a.toInt - m.toInt - carryNat (!c) < -128 ∨ 127 < a.toInt - m.toInt - carryNat (!c) := by
  rw [carryNat_not]
  exact signedOverflow_iff _

/-- A subtraction is an addition of the one's complement (R192). -/
theorem subBin_eq_addBin : subBin a m c = addBin a (~~~m) c := by
  have hm := m.isLt
  have hnot : (~~~m).toNat = 255 - m.toNat := BitVec.toNat_not
  have hc := carryNat_le_one c
  have hr : (subBin a m c).r = (addBin a (~~~m) c).r := by
    apply BitVec.eq_of_toNat_eq
    have hsub := subBin_r_toNat a m c
    rw [carryNat_not] at hsub
    rw [addBin_r_toNat, hnot]
    omega
  have hv : (subBin a m c).v = (addBin a (~~~m) c).v := by
    refine congrArg signedOverflow ?_
    rw [byte_toInt_not]
    omega
  have hcarry : (subBin a m c).c = (addBin a (~~~m) c).c := by
    refine decide_eq_decide.mpr ?_
    rw [hnot]
    omega
  calc subBin a m c
      = { r := (subBin a m c).r, n := bitOf (subBin a m c).r 7, v := (subBin a m c).v,
          z := (subBin a m c).r == 0, c := (subBin a m c).c } := rfl
    _ = addBin a (~~~m) c := by rw [hr, hv, hcarry]; rfl

/-- V by the signs: both operands differ in sign from the sum (R190). -/
theorem addBin_v_bits :
    (addBin a m c).v = bitOf ((a ^^^ (addBin a m c).r) &&& (m ^^^ (addBin a m c).r)) 7 := by
  have ha := a.isLt
  have hm := m.isLt
  have hc := carryNat_le_one c
  have hr := addBin_r_toNat a m c
  have hv : (addBin a m c).v = signedOverflow (a.toInt + m.toInt + carryNat c) := rfl
  rw [hv, Bool.eq_iff_iff, signedOverflow_iff, byte_toInt, byte_toInt, bitOf_and, bitOf_xor, bitOf_xor]
  simp only [bitOf_seven, Bool.and_eq_true, bne_iff_ne, ne_eq, decide_eq_decide]
  omega

/-- V of a subtraction by the signs: the operands differ, and the result differs from the first (R192). -/
theorem subBin_v_bits : (subBin a m c).v = bitOf ((a ^^^ m) &&& (a ^^^ (subBin a m c).r)) 7 := by
  rw [subBin_eq_addBin, addBin_v_bits]
  simp only [bitOf_and, bitOf_xor, bitOf_not m (by decide : 7 < 8)]
  cases bitOf a 7 <;> cases bitOf m 7 <;> simp

end

/-- Settles O19: the overflow of a sum by its signs, and the subtraction as the addition of a complement. -/
theorem overflowAndBorrowBitForms : Obligations.OverflowAndBorrowBitForms := fun a m c =>
  ⟨addBin_v_bits a m c, subBin_eq_addBin a m c, subBin_v_bits a m c⟩

/-! ### Decimal addition and subtraction -/

theorem isDecimal_iff (v : Byte) : isDecimal v = true ↔ v.toNat / 16 ≤ 9 ∧ v.toNat % 16 ≤ 9 := by
  simp [isDecimal]

/-- A decimal numeral has two digits (R191). -/
theorem decOf_le {v : Byte} (h : isDecimal v = true) : decOf v ≤ 99 := by
  rw [isDecimal_iff] at h
  unfold decOf
  omega

/-- The decimal numeral of a number of two digits, and its value (R191). -/
theorem bcdOf_isDecimal {n : Nat} (h : n < 100) : isDecimal (bcdOf n) = true ∧ decOf (bcdOf n) = n := by
  have hbyte : (bcdOf n).toNat = 16 * (n / 10) + n % 10 :=
    (BitVec.toNat_ofNat _ _).trans (Nat.mod_eq_of_lt (by omega))
  rw [isDecimal_iff, decOf, hbyte]
  omega

section
variable {a m : Byte} (ha : isDecimal a = true) (hm : isDecimal m = true)
include ha hm

/-- The decimal sum of two numerals modulo 100, and its carry (R191). -/
theorem addDec_of_numerals (k : Nat) (c : Bool) :
    isDecimal (addDec k a m c).r = true ∧ decOf (addDec k a m c).r = (decOf a + decOf m + carryNat c) % 100 ∧
      (addDec k a m c).c = decide (99 < decOf a + decOf m + carryNat c) := by
  have hsum : addDec k a m c = decimalResult k (bcdOf ((decOf a + decOf m + carryNat c) % 100))
      (decide (99 < decOf a + decOf m + carryNat c)) := by
    simp only [addDec, ha, hm, Bool.and_self, if_true]
  obtain ⟨hdecimal, hvalue⟩ := bcdOf_isDecimal (Nat.mod_lt (decOf a + decOf m + carryNat c) (by decide))
  rw [hsum]
  exact ⟨hdecimal, hvalue, rfl⟩

/-- The decimal difference of two numerals, as its ten's complement where it is below 0, and its borrow (R193, D28). -/
theorem subDec_of_numerals (k : Nat) (c : Bool) :
    isDecimal (subDec k a m c).r = true ∧
      (decOf (subDec k a m c).r : Int) = ((decOf a : Int) - decOf m - carryNat (!c)) % 100 ∧
      (subDec k a m c).c = decide (decOf m + carryNat (!c) ≤ decOf a) := by
  have hc := carryNat_le_one c
  have hle := decOf_le ha
  have hle' := decOf_le hm
  rw [carryNat_not]
  generalize hdiff : (decOf a : Int) - decOf m - (1 - carryNat c : Nat) = diff
  have hsub : subDec k a m c =
      decimalResult k (bcdOf (if 0 ≤ diff then diff.toNat else (diff + 100).toNat)) (decide (0 ≤ diff)) := by
    simp only [subDec, ha, hm, Bool.and_self, if_true, hdiff]
  obtain ⟨hdecimal, hvalue⟩ :=
    bcdOf_isDecimal (n := if 0 ≤ diff then diff.toNat else (diff + 100).toNat) (by split <;> omega)
  rw [hsub]
  refine ⟨hdecimal, (congrArg Nat.cast hvalue).trans ?_, decide_eq_decide.mpr ?_⟩
  · split <;> omega
  · omega

end

/-! ### Multiplication and division -/

/-- The product of two bytes fits into 16 bits (R202). -/
theorem product_bytes (p q : Byte) :
    256 * (highByte (product p q)).toNat + (lowByte (product p q)).toNat = p.toNat * q.toNat := by
  have hlt : p.toNat * q.toNat < 65536 :=
    calc p.toNat * q.toNat < 256 * 256 := Nat.mul_lt_mul'' p.isLt q.isLt
      _ = 65536 := rfl
  rw [← joinBytes_toNat, joinBytes_high_low, product, BitVec.toNat_ofNat]
  exact Nat.mod_eq_of_lt hlt

/-- Where the divisor is not 0 and the quotient fits into a byte, both bytes of a division are fixed (R203). -/
theorem divide_of_fits (k : Nat) {n : Addr} {d : Byte} (hd : 0 < d.toNat) (hfits : n.toNat / d.toNat ≤ 255) :
    n.toNat = d.toNat * (divide k n d).1.toNat + (~~~(divide k n d).2).toNat ∧
      (~~~(divide k n d).2).toNat < d.toNat := by
  have hrem : n.toNat % d.toNat < d.toNat := Nat.mod_lt _ hd
  have hbyte := d.isLt
  have hquotient : (BitVec.ofNat 8 (n.toNat / d.toNat)).toNat = n.toNat / d.toNat :=
    (BitVec.toNat_ofNat _ _).trans (Nat.mod_eq_of_lt (by omega))
  have hremainder : (BitVec.ofNat 8 (n.toNat % d.toNat)).toNat = n.toNat % d.toNat :=
    (BitVec.toNat_ofNat _ _).trans (Nat.mod_eq_of_lt (by omega))
  rw [divide, if_neg (by omega), BitVec.not_not, hquotient, hremainder]
  exact ⟨(Nat.div_add_mod _ _).symm, hrem⟩

end Sys2Proof.Machine
end

section
/-!
PROOFS. Arithmetic: ADC, SBC, INC, DEC, the counts of X and Y, MUL and DIV (R151, R152, R190 to R203).
-/

namespace Sys2Proof

/-- What a read-modify-write form was made of. -/
@[simp] theorem Form.loc_ofLoc (l : Loc) : (Form.ofLoc l).loc = l := by
  cases l <;> rfl

end Sys2Proof

namespace Sys2Proof.Machine

variable {s t u w : State} {R R' : List Reg} {F F' : List Flag} {as : List Addr} {v : Byte}

/-! ### Frames -/

/-- More may be named than changes. -/
theorem Leaves.weaken (h : Leaves s t R F as) (hR : R ⊆ R') (hF : F ⊆ F') : Leaves s t R' F' as := by
  obtain ⟨hregs, hflags, hrest⟩ := h
  exact ⟨fun r hr => hregs r fun hmem => hr (hR hmem), fun f hf => hflags f fun hmem => hf (hF hmem), hrest⟩

/-- Writing a flag changes that flag alone (R10). -/
theorem Leaves.setFlag (h : Leaves s t R F as) (f : Flag) (b : Bool) : Leaves s (t.setFlag f b) R (f :: F) as := by
  obtain ⟨hregs, hflags, hrest⟩ := h
  refine ⟨fun r hr => (by cases r <;> rfl : (t.setFlag f b).reg r = t.reg r).trans (hregs r hr), fun g hg => ?_,
    hrest⟩
  obtain ⟨hne, hg⟩ : g ≠ f ∧ g ∉ F := by simpa using hg
  exact (State.flag_setFlag_ne t b hne).trans (hflags g hg)

/-- An addition or subtraction writes N, V, Z and C (R194, R195). -/
theorem Leaves.setNVZC (h : Leaves s t R [] as) (q : AluResult) : Leaves s (t.setNVZC q) R [.n, .v, .z, .c] as :=
  ((((h.setFlag .n q.n).setFlag .v q.v).setFlag .z q.z).setFlag .c q.c).weaken (fun _ hr => hr) (by decide)

/-- The decimal hazard is in no frame (R350). -/
theorem Leaves.setAfterDecimal (h : Leaves s t R F as) (b : Bool) : Leaves s (t.setAfterDecimal b) R F as := by
  obtain ⟨hregs, hrest⟩ := h
  exact ⟨fun r hr => (by cases r <;> rfl : (t.setAfterDecimal b).reg r = t.reg r).trans (hregs r hr), hrest⟩

/-! ### ADC and SBC -/

/-- A or M(X) is read alike in a state with the same view, the same A and the same T (R152). -/
theorem SameView.destRead (h : SameView s t) (ha : t.a = s.a) (ht : t.flag .t = s.flag .t)
    (hread : s.destRead = .ok (v, u)) : ∃ k, u = s.draw k ∧ t.destRead = .ok (v, t.draw k) := by
  unfold State.destRead at hread ⊢
  rw [ht]
  split at hread
  · next hT =>
    rw [if_pos hT, State.mxAddr, h.x]
    exact h.read hread
  · next hT =>
    cases hread
    exact ⟨0, rfl, by rw [if_neg hT, ha]; rfl⟩

/-- The operand and then A or M(X) are read alike once PC has moved past the instruction (R151, R152, R160). -/
theorem operands_after_advance {o : Src} {m1 m2 : Byte} (n : Nat) (hoperand : s.operand o = .ok (m2, u))
    (hread : u.destRead = .ok (m1, w)) : ∃ j k, (s.advance n).operand o = .ok (m2, (s.advance n).draw j) ∧
      ((s.advance n).draw j).destRead = .ok (m1, (s.advance n).draw k) := by
  obtain ⟨j, rfl, hpassed⟩ := (SameView.advance s n).operand hoperand
  obtain ⟨k, -, hread⟩ := ((SameView.advance s n).draw j).destRead rfl rfl hread
  exact ⟨j, j + k, hpassed, by rwa [State.draw_draw] at hread⟩

/-- N, V, Z and C say what an adder computes. -/
def ShowsNVZC (t : State) (q : AluResult) : Prop :=
  t.flag .n = q.n ∧ t.flag .v = q.v ∧ t.flag .z = q.z ∧ t.flag .c = q.c

theorem State.setNVZC_shows (s : State) (q : AluResult) : ShowsNVZC (s.setNVZC q) q :=
  ⟨State.flag_setNVZC s q .n, State.flag_setNVZC s q .v, State.flag_setNVZC s q .z, State.flag_setNVZC s q .c⟩

/-- A result with its flags has gone where ADC and SBC put them: to A or M(X) and to N, V, Z and C, and nothing else
has changed (R194, R195). -/
def Delivers (s t : State) (o : Src) (q : AluResult) : Prop :=
  DestGets s t q.r ∧ ShowsNVZC t q ∧ PassedBy s t o.len ∧ Leaves s t s.destRegs [.n, .v, .z, .c] s.destBytes

/-- N, V, Z, C and the decimal hazard are no part of what the destination takes (R152, R350). -/
theorem DestGets.setNVZC (h : DestGets s t v) (q : AluResult) : DestGets s (t.setNVZC q) v := h

theorem DestGets.setAfterDecimal (h : DestGets s t v) (b : Bool) : DestGets s (t.setAfterDecimal b) v := h

/-- A result for the destination in the course of an instruction: PC has moved past it and free values have been
drawn (R152, R160). -/
theorem destWrite_after_reads {n : Nat} (hreads : OnlyDraws (s.advance n) u) (v : Byte) (h : s.destWritable) :
    ∃ t, u.destWrite v = .ok t ∧ DestGets s t v ∧ PassedBy s t n ∧ Leaves s t s.destRegs [] s.destBytes := by
  obtain ⟨k, rfl⟩ := hreads
  obtain ⟨t, hwrite, hgets, hpc, hleaves⟩ := State.destWrite_gets (s := (s.advance n).draw k) v h
  exact ⟨t, hwrite, hgets, hpc, ((Leaves.advance s n).draw k).trans hleaves⟩

/-- ADC and SBC: both operands are read, and what the adder makes of them is delivered; the reads may have drawn
free values (R194, R195). -/
theorem addSubOp_delivers (bin : Byte → Byte → Bool → AluResult) (dec : Nat → Byte → Byte → Bool → AluResult)
    {o : Src} {m1 m2 : Byte} (hoperand : s.operand o = .ok (m2, u)) (hread : u.destRead = .ok (m1, w))
    (hwritable : s.destWritable) :
    ∃ t k, addSubOp bin dec o s = .ok t ∧ Delivers s t o ((s.draw k).adder bin dec m1 m2) := by
  obtain ⟨j, k, hoperand, hread⟩ := operands_after_advance o.len hoperand hread
  have hreads : OnlyDraws (s.advance o.len) (((s.advance o.len).draw k).draw (if s.flag .d then decimalDraws else 0)) :=
    OnlyDraws.trans ⟨k, rfl⟩ ⟨_, rfl⟩
  obtain ⟨t, hwrite, hgets, hpassed, hleaves⟩ :=
    destWrite_after_reads hreads ((s.draw k).adder bin dec m1 m2).r hwritable
  refine ⟨(t.setNVZC ((s.draw k).adder bin dec m1 m2)).setAfterDecimal (t.flag .d), k, ?_,
    (hgets.setNVZC _).setAfterDecimal _, State.setNVZC_shows _ _, hpassed, (hleaves.setNVZC _).setAfterDecimal _⟩
  exact (Res.bind_of_ok hoperand).trans ((Res.bind_of_ok hread).trans (Res.bind_of_ok hwrite))

section
variable (bin : Byte → Byte → Bool → AluResult) (dec : Nat → Byte → Byte → Bool → AluResult) (k : Nat) (m1 m2 : Byte)

/-- With D = 0 the adder is the binary one, whatever has been drawn (R190, R192). -/
theorem State.adder_binary (h : s.flag .d = false) :
    (s.draw k).adder bin dec m1 m2 = bin m1 m2 (s.flag .c) :=
  if_neg (by simp [h])

/-- With D = 1 the adder is the decimal one (R191, R193). -/
theorem State.adder_decimal (h : s.flag .d = true) :
    (s.draw k).adder bin dec m1 m2 = dec (s.draws + k) m1 m2 (s.flag .c) :=
  if_pos h

end

/-- The course of ADC in every form (R194). -/
theorem course_adc (s : State) (o : Src) : course s .adc (.ofSrc o) = addSubOp addBin addDec o s :=
  congrArg (adcOp · s) (Form.src_ofSrc o)

/-- The course of SBC in every form (R195). -/
theorem course_sbc (s : State) (o : Src) : course s .sbc (.ofSrc o) = addSubOp subBin subDec o s :=
  congrArg (sbcOp · s) (Form.src_ofSrc o)

/-- Settles O17: with D = 0 the adder is the binary one, and V is the overflow of the signed sum. -/
theorem binaryAddition : Obligations.BinaryAddition := by
  intro s u w i o m1 m2 hview hbinary hoperand hread hwritable
  obtain ⟨t, k, hadc, hdelivers⟩ := addSubOp_delivers addBin addDec hoperand hread hwritable
  have hexec := exec_of_course hview ((course_adc s o).trans hadc)
  rw [State.adder_binary _ _ k m1 m2 hbinary] at hdelivers
  obtain ⟨hgets, ⟨hn, hv, hz, hc⟩, hpassed, hleaves⟩ := hdelivers
  refine ⟨t, _, hexec, hgets, ⟨hn, hz⟩, addBin_r_toNat m1 m2 _, hc, ?_, hpassed, hleaves⟩
  rw [hv]
  exact signedOverflow_iff _

/-- Settles O18: with D = 0 the adder is the binary one, and its borrow is the complement of C. -/
theorem binarySubtraction : Obligations.BinarySubtraction := by
  intro s u w i o m1 m2 hview hbinary hoperand hread hwritable
  obtain ⟨t, k, hsbc, hdelivers⟩ := addSubOp_delivers subBin subDec hoperand hread hwritable
  have hexec := exec_of_course hview ((course_sbc s o).trans hsbc)
  rw [State.adder_binary _ _ k m1 m2 hbinary] at hdelivers
  obtain ⟨hgets, ⟨hn, hv, hz, hc⟩, hpassed, hleaves⟩ := hdelivers
  refine ⟨t, _, hexec, hgets, ⟨hn, hz⟩, subBin_r_toNat m1 m2 _, ?_, ?_, hpassed, hleaves⟩
  · rw [hc]
    exact subBin_c m1 m2 _
  · rw [hv]
    exact subBin_v_iff m1 m2 _

/-- Settles O20: with D = 1 the adder is the decimal one, whose result is stated for numerals. -/
theorem decimalAddition : Obligations.DecimalAddition := by
  intro s u w i o m1 m2 hview hdecimal hoperand hread hwritable
  obtain ⟨t, k, hadc, hdelivers⟩ := addSubOp_delivers addBin addDec hoperand hread hwritable
  have hexec := exec_of_course hview ((course_adc s o).trans hadc)
  rw [State.adder_decimal _ _ k m1 m2 hdecimal] at hdelivers
  obtain ⟨hgets, ⟨-, -, -, hc⟩, hpassed, hleaves⟩ := hdelivers
  refine ⟨t, _, hexec, hgets, hpassed, hleaves, fun h1 h2 => ?_⟩
  obtain ⟨hnumeral, hvalue, hcarry⟩ := addDec_of_numerals h1 h2 (s.draws + k) (s.flag .c)
  exact ⟨hnumeral, hvalue, hc.trans hcarry⟩

/-- Settles O21: with D = 1 the adder is the decimal one, whose result is stated for numerals. -/
theorem decimalSubtraction : Obligations.DecimalSubtraction := by
  intro s u w i o m1 m2 hview hdecimal hoperand hread hwritable
  obtain ⟨t, k, hsbc, hdelivers⟩ := addSubOp_delivers subBin subDec hoperand hread hwritable
  have hexec := exec_of_course hview ((course_sbc s o).trans hsbc)
  rw [State.adder_decimal _ _ k m1 m2 hdecimal] at hdelivers
  obtain ⟨hgets, ⟨-, -, -, hc⟩, hpassed, hleaves⟩ := hdelivers
  refine ⟨t, _, hexec, hgets, hpassed, hleaves, fun h1 h2 => ?_⟩
  obtain ⟨hnumeral, hvalue, hborrow⟩ := subDec_of_numerals h1 h2 (s.draws + k) (s.flag .c)
  exact ⟨hnumeral, hvalue, hc.trans hborrow⟩

/-! ### INC, DEC and the counts of X and Y -/

/-- N and Z are no part of what a read-modify-write instruction works on (R151). -/
theorem LocGets.setNZ {l : Loc} (h : LocGets s t l as v) (w : Byte) : LocGets s (t.setNZ w) l as v := by
  cases l <;> exact h

/-- A read-modify-write past the instruction's bytes: in the state `u` the new byte is in its place, and then the
instruction's flags are set (R151, R160). -/
theorem modify_gets (n : Nat) {l : Loc} (f : Byte → Byte) (g : State → Byte → Byte → State)
    (h : s.locHolds l as v) : ∃ u, (s.advance n).modify l f g = .ok (g u v (f v)) ∧ LocGets s u l as (f v) ∧
      PassedBy s u n ∧ Leaves s u (locRegs l) [] as := by
  cases l with
  | acc =>
    obtain ⟨rfl, rfl⟩ := h
    exact ⟨(s.advance n).setA (f s.a), rfl, rfl, rfl, (Leaves.advance s n).trans (State.setA_leaves _ _)⟩
  | mem m =>
    obtain ⟨a, u, w, hea, hread, hwritable, rfl⟩ := h
    obtain ⟨j, rfl, hea'⟩ := (SameView.advance s n).ea hea
    obtain ⟨k, -, hread'⟩ := ((SameView.advance s n).draw j).read hread
    rw [State.draw_draw] at hread'
    obtain ⟨t, hwrite, hstores, hpassed, hleaves⟩ := advance_write_stores n (j + k) (f v) hwritable
    refine ⟨t, ?_, by simpa [LocGets] using hstores, hpassed, hleaves⟩
    exact (Res.bind_of_ok hea').trans ((Res.bind_of_ok hread').trans (Res.bind_of_ok hwrite))

/-- A read-modify-write that sets N and Z of the new byte (R196, R197, R213). -/
theorem modify_setNZ_gets (n : Nat) {l : Loc} (f : Byte → Byte) (h : s.locHolds l as v) :
    ∃ t, (s.advance n).modify l f (fun s _ r => s.setNZ r) = .ok t ∧ LocGets s t l as (f v) ∧ ShowsNZ t (f v) ∧
      PassedBy s t n ∧ Leaves s t (locRegs l) [.n, .z] as := by
  obtain ⟨u, hmodify, hgets, hpassed, hleaves⟩ := modify_gets n f (fun s _ r => s.setNZ r) h
  exact ⟨u.setNZ (f v), hmodify, hgets.setNZ _, u.setNZ_shows _, hpassed, hleaves.setNZ _⟩

/-- The course of INC in every form (R196). -/
theorem course_inc (s : State) (l : Loc) :
    course s .inc (.ofLoc l) = (s.advance l.len).modify l (fun v => v + 1) fun s _ r => s.setNZ r :=
  congrArg (incOp · s) (Form.loc_ofLoc l)

/-- The course of DEC in every form (R197). -/
theorem course_dec (s : State) (l : Loc) :
    course s .dec (.ofLoc l) = (s.advance l.len).modify l (fun v => v - 1) fun s _ r => s.setNZ r :=
  congrArg (decOp · s) (Form.loc_ofLoc l)

/-- Settles O22: INC and DEC are one read-modify-write that adds or subtracts 1. -/
theorem incrementAndDecrement : Obligations.IncrementAndDecrement := by
  intro s i l as v r hcase hholds
  rcases hcase with ⟨hview, rfl⟩ | ⟨hview, rfl⟩
  · obtain ⟨t, hinc, hdone⟩ := modify_setNZ_gets l.len (fun v => v + 1) hholds
    exact ⟨t, exec_of_course hview ((course_inc s l).trans hinc), hdone⟩
  · obtain ⟨t, hdec, hdone⟩ := modify_setNZ_gets l.len (fun v => v - 1) hholds
    exact ⟨t, exec_of_course hview ((course_dec s l).trans hdec), hdone⟩

/-- Settles O23: each is one write to X or Y with N and Z. -/
theorem indexIncrementAndDecrement : Obligations.IndexIncrementAndDecrement := by
  intro s i r v hmem
  simp only [List.mem_cons, List.not_mem_nil, or_false, Prod.mk.injEq] at hmem
  rcases hmem with ⟨rfl, rfl, rfl⟩ | ⟨rfl, rfl, rfl⟩ | ⟨rfl, rfl, rfl⟩ | ⟨rfl, rfl, rfl⟩
  · exact ⟨_, rfl, registerOp_gets setX_putsReg s (s.x + 1)⟩
  · exact ⟨_, rfl, registerOp_gets setX_putsReg s (s.x - 1)⟩
  · exact ⟨_, rfl, registerOp_gets setY_putsReg s (s.y + 1)⟩
  · exact ⟨_, rfl, registerOp_gets setY_putsReg s (s.y - 1)⟩

/-! ### MUL and DIV -/

/-- A byte has been pushed and a byte has gone to A, by an instruction of two bytes: all that MUL and DIV do (R202,
R203). -/
def PushesAndSetsA (s t : State) (p v : Byte) : Prop :=
  Stores s t (s.stackAt s.sp) p ∧ t.a = v ∧ t.sp = s.sp - 1 ∧ PassedBy s t 2 ∧
    Leaves s t [.a, .sp] [] [s.stackAt s.sp]

/-- A push in the course of an instruction: PC has moved past it and free values have been drawn (R37, R160). -/
theorem push_after_reads {n : Nat} (hreads : OnlyDraws (s.advance n) u) (p : Byte) (h : s.writable s.stackAddr) :
    ∃ w, u.push p = .ok w ∧ Stores s w (s.stackAt s.sp) p ∧ w.sp = s.sp - 1 ∧ PassedBy s w n ∧
      Leaves s w [.sp] [] [s.stackAt s.sp] := by
  obtain ⟨k, rfl⟩ := hreads
  obtain ⟨w, hpush, hstores, hsp, hleaves⟩ := State.push_stores (s := (s.advance n).draw k) p h
  have hpc : w.pc = ((s.advance n).draw k).pc := State.push_pc hpush
  exact ⟨w, hpush, hstores, hsp, hpc, ((Leaves.advance s n).draw k).trans hleaves⟩

/-- A is no part of what a store does (R71). -/
theorem Stores.setA {a : Addr} {p : Byte} (h : Stores s t a p) (v : Byte) : Stores s (t.setA v) a p := h

/-- A push and a write to A after the instruction's reads (R202, R203). -/
theorem push_setA (hreads : OnlyDraws (s.advance 2) u) (p v : Byte) (h : s.writable s.stackAddr) :
    ∃ w, u.push p = .ok w ∧ PushesAndSetsA s (w.setA v) p v := by
  obtain ⟨w, hpush, hstores, hsp, hpassed, hleaves⟩ := push_after_reads hreads p h
  have hframe := hleaves.trans (w.setA_leaves v)
  exact ⟨w, hpush, hstores.setA v, rfl, hsp, hpassed, hframe.weaken (by decide) (by decide)⟩

/-- MUL pushes the high-order byte of the product and sets A to the low-order byte (R202). -/
theorem mulOp_product {zz m : Byte} (hpresent : s.cfg.hasMulDiv = true)
    (hread : s.read (zext16 (zz + s.x)) = .ok (m, u)) (h : s.writable s.stackAddr) :
    ∃ t, mulOp zz s = .ok t ∧
      PushesAndSetsA s t (highByte (product s.a m)) (lowByte (product s.a m)) := by
  obtain ⟨k, -, hread⟩ := (SameView.advance s 2).read hread
  obtain ⟨w, hpush, hdone⟩ := push_setA ⟨k, rfl⟩ (highByte (product s.a m)) (lowByte (product s.a m)) h
  refine ⟨_, ?_, hdone⟩
  unfold mulOp
  rw [if_pos hpresent, Res.bind_of_ok hread]
  exact Res.bind_of_ok hpush

/-- DIV pushes the second byte of the division and sets A to the first (R203). -/
theorem divOp_divide {zz : Byte} {n : Addr} (hpresent : s.cfg.hasMulDiv = true)
    (hread : s.zpPointer (zz + s.x) = .ok (n, u)) (h : s.writable s.stackAddr) :
    ∃ t k, divOp zz s = .ok t ∧ PushesAndSetsA s t (divide k n s.a).2 (divide k n s.a).1 := by
  obtain ⟨k, -, hread⟩ := (SameView.advance s 2).zpPointer hread
  have hreads : OnlyDraws (s.advance 2) (((s.advance 2).draw k).draw (divideDraws n s.a)) :=
    OnlyDraws.trans ⟨k, rfl⟩ ⟨_, rfl⟩
  obtain ⟨w, hpush, hdone⟩ := push_setA hreads (divide (s.draws + k) n s.a).2 (divide (s.draws + k) n s.a).1 h
  refine ⟨_, _, ?_, hdone⟩
  unfold divOp
  rw [if_pos hpresent, Res.bind_of_ok hread]
  exact Res.bind_of_ok hpush

/-- Settles O24: the two bytes are those of the product, which fits into 16 bits. -/
theorem multiplication : Obligations.Multiplication := by
  intro s u zz m hpresent hread hwritable
  obtain ⟨t, hmul, hstores, ha, hsp, hpassed, hleaves⟩ := mulOp_product hpresent hread hwritable
  refine ⟨t, _, exec_of_course (i := .mul zz) rfl hmul, hstores, ?_, hsp, hpassed, hleaves⟩
  rw [ha]
  exact product_bytes s.a m

/-- Settles O25: the two bytes are those of the division, which are fixed where the quotient fits into a byte. -/
theorem division : Obligations.Division := by
  intro s u zz n hpresent hread hwritable
  obtain ⟨t, k, hdiv, hstores, ha, hsp, hpassed, hleaves⟩ := divOp_divide hpresent hread hwritable
  refine ⟨t, _, exec_of_course (i := .div zz) rfl hdiv, hstores, hsp, hpassed, hleaves, fun hpos hfits => ?_⟩
  rw [ha]
  exact divide_of_fits k hpos hfits

end Sys2Proof.Machine
end

section
/-!
PROOFS. Logic, comparison, shifts and rotates: AND, ORA, EOR, COM, RRF, BIT, TST, CMP, CPX, CPY, ASL, LSR, ROL and ROR
(R151, R152, R210 to R223).
-/

namespace Sys2Proof.Machine

variable {s t u w : State} {as : List Addr} {v : Byte}

/-! ### Bytes as numbers -/

/-- The weight of a bit (R240). -/
theorem oneBit_toNat {i : Nat} (hi : i < 8) : (oneBit i).toNat = 2 ^ i := by
  interval_cases i <;> rfl

/-- A byte and the weight of a bit that is 0 in it have no bit in common. -/
theorem and_oneBit_of_clear {i : Nat} (hi : i < 8) (hclear : bitOf v i = false) : v &&& oneBit i = 0 := by
  refine BitVec.eq_of_getLsbD_eq fun j _ => ?_
  have hand : bitOf (v &&& oneBit i) j = (bitOf v j && decide (j = i)) := by rw [bitOf_and, bitOf_oneBit i j hi]
  refine hand.trans ?_
  by_cases hj : j = i <;> simp [hj, hclear]

/-- Writing 0 to a bit that is 0 changes nothing (R241). -/
theorem putBit_false_of_clear {i : Nat} (hi : i < 8) (hclear : bitOf v i = false) : putBit v i false = v := by
  refine BitVec.eq_of_getLsbD_eq fun j hj => (bitOf_putBit v i j false hi hj).trans ?_
  split
  · next heq => rw [heq, ← hclear, bitOf]
  · rfl

/-- A bit written where there was 0 adds its weight times the value written (R240, R241). -/
theorem putBit_toNat_of_clear {i : Nat} (hi : i < 8) (hclear : bitOf v i = false) (b : Bool) :
    (putBit v i b).toNat = v.toNat + 2 ^ i * carryNat b := by
  cases b with
  | false => rw [putBit_false_of_clear hi hclear]; rfl
  | true =>
    have hdisjoint := and_oneBit_of_clear hi hclear
    calc (putBit v i true).toNat = (v ||| oneBit i).toNat := rfl
      _ = (v + oneBit i).toNat := by rw [BitVec.add_eq_or_of_and_eq_zero _ _ hdisjoint]
      _ = v.toNat + (oneBit i).toNat := BitVec.toNat_add_of_and_eq_zero hdisjoint
      _ = v.toNat + 2 ^ i * carryNat true := by rw [oneBit_toNat hi]; simp [carryNat]

/-- ASL doubles modulo 256 (R219). -/
theorem shiftLeft_toNat (v : Byte) : (shiftLeft v).toNat = 2 * v.toNat % 256 := by
  rw [shiftLeft, BitVec.toNat_shiftLeft, Nat.shiftLeft_eq]
  omega

/-- LSR halves (R220). -/
theorem shiftRight_toNat (v : Byte) : (shiftRight v).toNat = v.toNat / 2 := by
  rw [shiftRight, BitVec.toNat_ushiftRight, Nat.shiftRight_eq_div_pow]

/-- ROL doubles modulo 256 and adds the old C (R221). -/
theorem rotateLeft_toNat (c : Bool) (v : Byte) : (rotateLeft c v).toNat = 2 * v.toNat % 256 + carryNat c := by
  have hclear : bitOf (shiftLeft v) 0 = false := by simp [bitOf, shiftLeft]
  have hput := putBit_toNat_of_clear (by decide) hclear c
  rwa [shiftLeft_toNat, pow_zero, one_mul] at hput

/-- ROR halves and adds 128 for the old C (R222). -/
theorem rotateRight_toNat (c : Bool) (v : Byte) : (rotateRight c v).toNat = v.toNat / 2 + 128 * carryNat c := by
  have hclear : bitOf (shiftRight v) 7 = false := by simp [bitOf, shiftRight]
  have hput := putBit_toNat_of_clear (by decide) hclear c
  rwa [shiftRight_toNat] at hput

/-- The exchange of the halves of a byte, as a number (R223). -/
theorem swapHalves_toNat (v : Byte) : (swapHalves v).toNat = 16 * (v.toNat % 16) + v.toNat / 16 := by
  have hv := v.isLt
  have hhalves : (swapHalves v).toNat = (v.extractLsb' 0 4).toNat <<< 4 ||| (v.extractLsb' 4 4).toNat :=
    BitVec.toNat_append _ _
  rw [hhalves, BitVec.extractLsb'_toNat, BitVec.extractLsb'_toNat, ← Nat.shiftLeft_add_eq_or_of_lt (by omega)]
  omega

/-! ### AND, ORA and EOR -/

/-- Both operands are read, and what `f` makes of them goes to A or M(X) with N and Z (R210 to R212). -/
theorem logicOp_delivers (f : Byte → Byte → Byte) {o : Src} {m1 m2 : Byte} (hoperand : s.operand o = .ok (m2, u))
    (hread : u.destRead = .ok (m1, w)) (hwritable : s.destWritable) :
    ∃ t, logicOp f o s = .ok t ∧ DestGets s t (f m1 m2) ∧ ShowsNZ t (f m1 m2) ∧ PassedBy s t o.len ∧
      Leaves s t s.destRegs [.n, .z] s.destBytes := by
  obtain ⟨j, k, hoperand, hread⟩ := operands_after_advance o.len hoperand hread
  obtain ⟨t, hwrite, hgets, hpassed, hleaves⟩ := destWrite_after_reads ⟨k, rfl⟩ (f m1 m2) hwritable
  refine ⟨t.setNZ (f m1 m2), ?_, hgets.setNZ _, t.setNZ_shows _, hpassed, hleaves.setNZ _⟩
  exact (Res.bind_of_ok hoperand).trans ((Res.bind_of_ok hread).trans (Res.bind_of_ok hwrite))

/-- Settles O27: the three are one operation with three functions of two bytes. -/
theorem logicalOperations : Obligations.LogicalOperations := by
  intro s u w i o m1 m2 r hcase hoperand hread hwritable
  have hcourse (f : Byte → Byte → Byte) : logicOp f (Form.ofSrc o).src s = logicOp f o s :=
    congrArg (logicOp f · s) (Form.src_ofSrc o)
  rcases hcase with ⟨hview, rfl⟩ | ⟨hview, rfl⟩ | ⟨hview, rfl⟩
  · obtain ⟨t, hand, hdone⟩ := logicOp_delivers (fun p q => p &&& q) hoperand hread hwritable
    exact ⟨t, exec_of_course hview ((hcourse _).trans hand), hdone⟩
  · obtain ⟨t, hora, hdone⟩ := logicOp_delivers (fun p q => p ||| q) hoperand hread hwritable
    exact ⟨t, exec_of_course hview ((hcourse _).trans hora), hdone⟩
  · obtain ⟨t, heor, hdone⟩ := logicOp_delivers (fun p q => p ^^^ q) hoperand hread hwritable
    exact ⟨t, exec_of_course hview ((hcourse _).trans heor), hdone⟩

/-! ### COM and RRF -/

/-- Settles O28: COM is one read-modify-write with N and Z. -/
theorem complementOfMemory : Obligations.ComplementOfMemory := by
  intro s zz v as hholds
  obtain ⟨t, hcom, hgets, hrest⟩ := modify_setNZ_gets 2 (fun v => ~~~v) hholds
  exact ⟨t, ~~~v, exec_of_course (i := .com zz) rfl hcom, hgets, BitVec.toNat_not, hrest⟩

/-- Settles O29: RRF is one read-modify-write without flags. -/
theorem rotateByFour : Obligations.RotateByFour := by
  intro s zz v as hholds
  obtain ⟨t, hrrf, hgets, hrest⟩ := modify_gets 2 swapHalves (fun s _ _ => s) hholds
  exact ⟨t, swapHalves v, exec_of_course (i := .rrf zz) rfl hrrf, hgets, swapHalves_toNat v, hrest⟩

/-! ### BIT and TST -/

/-- BIT: N and V from the operand, Z from its AND with A (R214). -/
theorem bitTestOp_tests {m : MemMode} (hoperand : s.operand (.mem m) = .ok (v, u)) :
    ∃ t, bitTestOp m s = .ok t ∧ t.flag .n = bitOf v 7 ∧ t.flag .v = bitOf v 6 ∧ t.flag .z = (s.a &&& v == 0) ∧
      PassedBy s t m.len ∧ Leaves s t [] [.n, .v, .z] [] := by
  obtain ⟨k, hoperand⟩ := operand_after_advance m.len hoperand
  have hbit : bitTestOp m s = .ok (((((s.advance m.len).draw k).setFlag .n (bitOf v 7)).setFlag .v
      (bitOf v 6)).setFlag .z (s.a &&& v == 0)) := Res.bind_of_ok hoperand
  exact ⟨_, hbit, rfl, rfl, rfl, rfl, (bitTestOp_changes hbit).leaves⟩

/-- TST: N and Z of the byte (R215). -/
theorem tstOp_tests {zz : Byte} (hread : s.read (zext16 zz) = .ok (v, u)) :
    ∃ t, tstOp zz s = .ok t ∧ ShowsNZ t v ∧ PassedBy s t 2 ∧ Leaves s t [] [.n, .z] [] := by
  obtain ⟨k, -, hread⟩ := (SameView.advance s 2).read hread
  have htst : tstOp zz s = .ok (((s.advance 2).draw k).setNZ v) := Res.bind_of_ok hread
  exact ⟨_, htst, State.setNZ_shows _ v, rfl, (tstOp_changes htst).leaves⟩

/-- Settles O30: both read one byte and set flags. -/
theorem bitTests : Obligations.BitTests := by
  refine ⟨fun s u i m v hview hoperand => ?_, fun s u zz v hread => ?_⟩
  · obtain ⟨t, hbit, htested⟩ := bitTestOp_tests hoperand
    exact ⟨t, exec_of_course hview hbit, htested⟩
  · obtain ⟨t, htst, htested⟩ := tstOp_tests hread
    exact ⟨t, finish_next.mpr htst, htested⟩

/-! ### CMP, CPX and CPY -/

/-- C, Z and N say how two bytes compare (R216 to R218). -/
def ShowsCompare (t : State) (p q : Byte) : Prop :=
  t.flag .c = decide (q.toNat ≤ p.toNat) ∧ t.flag .z = (p == q) ∧ t.flag .n = bitOf (p - q) 7

/-- A comparison's Z is equality: the difference of two bytes is 0 where they are equal (R216). -/
theorem State.setCompare_shows (s : State) (p q : Byte) : ShowsCompare (s.setCompare p q) p q := by
  have hzero : (p - q == 0) = (p == q) := by
    rw [Bool.eq_iff_iff, beq_iff_eq, beq_iff_eq]
    exact sub_eq_zero
  exact ⟨s.flag_setCompare p q .c, (s.flag_setCompare p q .z).trans hzero, s.flag_setCompare p q .n⟩

/-- CMP: A or M(X) is compared with the operand (R216). -/
theorem cmpOp_compares {o : Src} {m1 m2 : Byte} (hoperand : s.operand o = .ok (m2, u))
    (hread : u.destRead = .ok (m1, w)) :
    ∃ t, cmpOp o s = .ok t ∧ ShowsCompare t m1 m2 ∧ PassedBy s t o.len ∧ Leaves s t [] [.n, .z, .c] [] := by
  obtain ⟨j, k, hoperand, hread⟩ := operands_after_advance o.len hoperand hread
  have hcmp : cmpOp o s = .ok (((s.advance o.len).draw k).setCompare m1 m2) :=
    (Res.bind_of_ok hoperand).trans (Res.bind_of_ok hread)
  exact ⟨_, hcmp, State.setCompare_shows _ m1 m2, rfl, (cmpOp_changes hcmp).leaves⟩

/-- CPX and CPY: the register is compared with the operand (R217, R218). -/
theorem compareOp_compares (r : Reg) {o : Src} {m : Byte} (hoperand : s.operand o = .ok (m, u)) :
    ∃ t, compareOp (fun s => s.reg r) o s = .ok t ∧ ShowsCompare t (s.reg r) m ∧ PassedBy s t o.len ∧
      Leaves s t [] [.n, .z, .c] [] := by
  obtain ⟨k, hoperand⟩ := operand_after_advance o.len hoperand
  have hsame : ((s.advance o.len).draw k).reg r = s.reg r := by cases r <;> rfl
  have hcompare : compareOp (fun s => s.reg r) o s = .ok (((s.advance o.len).draw k).setCompare (s.reg r) m) := by
    rw [← hsame]
    exact Res.bind_of_ok hoperand
  exact ⟨_, hcompare, State.setCompare_shows _ _ m, rfl, (compareOp_changes hcompare).leaves⟩

/-- Settles O31: both bytes are read, and only C, Z and N are written. -/
theorem compareAccumulator : Obligations.CompareAccumulator := by
  intro s u w i o m1 m2 hview hoperand hread
  obtain ⟨t, hcmp, ⟨hc, hz, hn⟩, hrest⟩ := cmpOp_compares hoperand hread
  rw [← Form.src_ofSrc o] at hcmp
  exact ⟨t, exec_of_course hview hcmp, hc, hz, hn, hrest⟩

/-- Settles O32: CPX and CPY are one operation, with X or Y for its register. -/
theorem compareIndexRegister : Obligations.CompareIndexRegister := by
  intro s u i o r m hcase hoperand
  obtain ⟨t, hcompare, ⟨hc, hz, hn⟩, hrest⟩ := compareOp_compares r hoperand
  rw [← Form.src_ofSrc o] at hcompare
  refine ⟨t, ?_, hc, hz, hn, hrest⟩
  rcases hcase with ⟨hview, rfl⟩ | ⟨hview, rfl⟩ <;> exact exec_of_course hview hcompare

/-! ### ASL, LSR, ROL and ROR -/

/-- C, N and Z are no part of what a read-modify-write instruction works on (R151). -/
theorem LocGets.setShift {l : Loc} {r : Byte} (h : LocGets s t l as r) (c : Bool) (w : Byte) :
    LocGets s (t.setShift c w) l as r := by
  cases l <;> exact h

theorem State.setShift_shows (s : State) (c : Bool) (r : Byte) :
    ShowsNZ (s.setShift c r) r ∧ (s.setShift c r).flag .c = c :=
  ⟨⟨s.flag_setShift c r .n, s.flag_setShift c r .z⟩, s.flag_setShift c r .c⟩

/-- A shift or rotate writes C, N and Z (R219 to R222). -/
theorem Leaves.setShift {R : List Reg} (h : Leaves s t R [] as) (c : Bool) (r : Byte) :
    Leaves s (t.setShift c r) R [.n, .z, .c] as :=
  (((h.setFlag .c c).setFlag .n (bitOf r 7)).setFlag .z (r == 0)).weaken (fun _ hr => hr) (by decide)

/-- An instruction whose course is a read-modify-write with bit `k` of the old byte shifted out to C: `f` of the byte
takes its place (R219 to R222). -/
theorem exec_of_shift {i : Instr} {n : Mnemonic} {l : Loc} {f : Byte → Byte} {k : Nat}
    (hview : i.view = (n, .ofLoc l))
    (hcourse : course s n (.ofLoc l) = (s.advance l.len).modify l f fun s v r => s.setShift (bitOf v k) r)
    (hholds : s.locHolds l as v) :
    ∃ t, exec i s = .next t ∧ LocGets s t l as (f v) ∧ ShowsNZ t (f v) ∧ t.flag .c = bitOf v k ∧
      PassedBy s t l.len ∧ Leaves s t (locRegs l) [.n, .z, .c] as := by
  obtain ⟨u, hmodify, hgets, hpassed, hleaves⟩ := modify_gets l.len f (fun s v r => s.setShift (bitOf v k) r) hholds
  obtain ⟨hshows, hc⟩ := u.setShift_shows (bitOf v k) (f v)
  exact ⟨_, exec_of_course hview (hcourse.trans hmodify), hgets.setShift _ _, hshows, hc, hpassed,
    hleaves.setShift _ _⟩

/-- Settles O33: each is one read-modify-write that shifts bit 7 or bit 0 out to C. -/
theorem shiftsAndRotates : Obligations.ShiftsAndRotates := by
  intro s i l as v n c hcase hholds
  rcases hcase with ⟨hview, rfl, rfl⟩ | ⟨hview, rfl, rfl⟩ | ⟨hview, rfl, rfl⟩ | ⟨hview, rfl, rfl⟩
  · obtain ⟨t, hexec, hgets, hrest⟩ := exec_of_shift hview (congrArg (aslOp · s) (Form.loc_ofLoc l)) hholds
    exact ⟨t, _, hexec, hgets, shiftLeft_toNat v, hrest⟩
  · obtain ⟨t, hexec, hgets, hrest⟩ := exec_of_shift hview (congrArg (lsrOp · s) (Form.loc_ofLoc l)) hholds
    exact ⟨t, _, hexec, hgets, shiftRight_toNat v, hrest⟩
  · obtain ⟨t, hexec, hgets, hrest⟩ := exec_of_shift hview (congrArg (rolOp · s) (Form.loc_ofLoc l)) hholds
    exact ⟨t, _, hexec, hgets, rotateLeft_toNat _ v, hrest⟩
  · obtain ⟨t, hexec, hgets, hrest⟩ := exec_of_shift hview (congrArg (rorOp · s) (Form.loc_ofLoc l)) hholds
    exact ⟨t, _, hexec, hgets, rotateRight_toNat _ v, hrest⟩

end Sys2Proof.Machine
end

section
/-!
PROOFS. Bit management and flag setting: CLB, SEB, CLC, SEC, CLD, SED, CLI, SEI, CLT, SET and CLV (R240 to R250), and
the decimal hazard that the instruction before may have left (R350).
-/

namespace Sys2Proof.Machine

variable {s t : State} {as : List Addr} {v : Byte}

/-! ### CLB and SEB -/

/-- CLB and SEB on A are a read-modify-write of A without flags (R240, R241). -/
theorem exec_bitAcc (s : State) (k : BitNo) (b : Bool) :
    exec (if b then .sebAcc k else .clbAcc k) s =
      finish ((s.advance 1).modify .acc (fun v => putBit v k.toNat b) fun s _ _ => s) := by
  cases b <;> rfl

/-- CLB and SEB on a zero page byte are a read-modify-write of that byte without flags (R240, R241). -/
theorem exec_bitZp (s : State) (k : BitNo) (zz : Byte) (b : Bool) :
    exec (if b then .sebZp k zz else .clbZp k zz) s =
      finish ((s.advance 2).modify (.mem (.zp zz)) (fun v => putBit v k.toNat b) fun s _ _ => s) := by
  cases b <;> rfl

/-- An instruction that is a read-modify-write without flags of one bit: the seven other bits stay (R240, R241). -/
theorem exec_of_putBit {i : Instr} {l : Loc} {n : Nat} {k : BitNo} {b : Bool}
    (hexec : exec i s = finish ((s.advance n).modify l (fun v => putBit v k.toNat b) fun s _ _ => s))
    (hholds : s.locHolds l as v) :
    ∃ t r, exec i s = .next t ∧ LocGets s t l as r ∧
      (∀ j, j < 8 → bitOf r j = if j = k.toNat then b else bitOf v j) ∧
      PassedBy s t n ∧ Leaves s t (locRegs l) [] as := by
  obtain ⟨t, hmodify, hgets, hframe⟩ :=
    modify_gets n (fun v => putBit v k.toNat b) (fun s _ _ => s) hholds
  exact ⟨t, putBit v k.toNat b, hexec.trans (finish_next.mpr hmodify), hgets,
    fun j hj => bitOf_putBit v k.toNat j b k.isLt hj, hframe⟩

/-- Settles O34: on A and on a zero page byte each is one read-modify-write that writes a bit. -/
theorem clearAndSetBit : Obligations.ClearAndSetBit := by
  intro s k b i l as v n hcase hholds
  rcases hcase with ⟨rfl, rfl, rfl⟩ | ⟨zz, rfl, rfl, rfl⟩
  · exact exec_of_putBit (exec_bitAcc s k b) hholds
  · exact exec_of_putBit (exec_bitZp s k zz b) hholds

/-! ### One flag -/

/-- A flag instruction gives its flag the value and leaves everything else (R242 to R250). -/
theorem flagOp_writes (f : Flag) (b : Bool) (s : State) :
    (flagOp f b s).flag f = b ∧ PassedBy s (flagOp f b s) 1 ∧ Leaves s (flagOp f b s) [] [f] [] :=
  ⟨State.flag_setFlag_same _ f b, rfl, (flagOp_changes f b s).leaves⟩

/-- Settles O35: the six are one operation, on four flags. -/
theorem flagInstructions : Obligations.FlagInstructions := by
  intro s i f b hmem
  refine ⟨flagOp f b s, ?_, flagOp_writes f b s⟩
  simp only [List.mem_cons, List.not_mem_nil, or_false, Prod.mk.injEq] at hmem
  rcases hmem with ⟨rfl, rfl, rfl⟩ | ⟨rfl, rfl, rfl⟩ | ⟨rfl, rfl, rfl⟩ | ⟨rfl, rfl, rfl⟩ | ⟨rfl, rfl, rfl⟩ |
    ⟨rfl, rfl, rfl⟩ <;> rfl

/-! ### CLC, SEC and CLD -/

/-- An instruction of one byte has written one flag; directly after an ADC or SBC with D = 1 it has left the flag and
C free, and nothing else changed (R350, R357). -/
def WritesUnlessLate (s t : State) (f : Flag) (b : Bool) : Prop :=
  PassedBy s t 1 ∧ (s.afterDecimal = false → t.flag f = b ∧ Leaves s t [] [f] []) ∧
    (s.afterDecimal = true → Leaves s t [] [f, .c] [])

/-- It is enough to leave all but the flag and C, and to be a flag instruction where the hazard of R350 is not. -/
theorem writesUnlessLate_of_leaves {f : Flag} {b : Bool} (hpassed : PassedBy s t 1)
    (hleaves : Leaves s t [] [f, .c] []) (hflagOp : s.afterDecimal = false → t = flagOp f b s) :
    WritesUnlessLate s t f b := by
  refine ⟨hpassed, fun hlate => ?_, fun _ => hleaves⟩
  rw [hflagOp hlate]
  obtain ⟨hflag, -, hframe⟩ := flagOp_writes f b s
  exact ⟨hflag, hframe⟩

theorem carryOp_passedBy (b : Bool) (s : State) : PassedBy s (carryOp b s) 1 := by
  unfold carryOp
  split <;> rfl

theorem cldOp_passedBy (s : State) : PassedBy s (cldOp s) 1 := by
  unfold cldOp
  split <;> rfl

/-- CLC and SEC (R242, R243, R357). -/
theorem carryOp_writesUnlessLate (b : Bool) (s : State) : WritesUnlessLate s (carryOp b s) .c b :=
  writesUnlessLate_of_leaves (carryOp_passedBy b s)
    ((carryOp_changes b s).leaves.weaken (fun _ hr => hr) (by decide))
    fun hlate => if_neg (by simp [hlate])

/-- CLD: D and C are free in the hazard, D is 0 without it (R244, R357). -/
theorem cldOp_writesUnlessLate (s : State) : WritesUnlessLate s (cldOp s) .d false :=
  writesUnlessLate_of_leaves (cldOp_passedBy s)
    ((cldOp_changes s).leaves.weaken (fun _ hr => hr) (by split <;> decide))
    fun hlate => if_neg (by simp [hlate])

/-! ### The decimal hazard an instruction leaves -/

/-- ADC and SBC with D = 1 leave the hazard, and every other course ends it: each begins by moving PC, which ends it,
and nothing but `addSubOp` starts it again (R350). -/
theorem course_afterDecimal {n : Mnemonic} {f : Form} (h : course s n f = .ok t) :
    t.afterDecimal = ((n == .adc || n == .sbc) && s.flag .d) := by
  cases n with
  | adc | sbc => exact (addSubOp_changes h).late
  | and | ora | eor => exact (logicOp_changes h).late
  | lda => exact (ldaOp_changes h).late
  | ldx | ldy | tst =>
    obtain ⟨⟨v, u⟩, hoperand, h⟩ := Res.bind_ok.mp h
    cases h
    exact (operand_changes hoperand).late
  | cmp => exact (cmpOp_changes h).late
  | cpx | cpy => exact (compareOp_changes h).late
  | bit => exact (bitTestOp_changes h).late
  | sta | stx | sty => exact (storeOp_changes h).late
  | inc => exact (modify_setNZ_changes (show incOp f.loc s = .ok t from h)).late
  | dec => exact (modify_setNZ_changes (show decOp f.loc s = .ok t from h)).late
  | com => exact (modify_setNZ_changes h).late
  | asl | lsr | rol | ror => exact (shift_changes h).late
  | rrf => exact (modify_noFlag_changes h).late
  | mul => exact (mulOp_changes h).late
  | div => exact (divOp_changes h).late
  | pha | php => exact ((Changes.advance s 1).push h).late
  | pla => exact (plaOp_changes h).late
  | plp => exact (plpOp_changes h).late
  | clc | sec => cases h; exact (carryOp_changes _ s).late
  | cld => cases h; exact (cldOp_changes s).late
  | rts => exact (rtsOp_changes h).late
  | rti => exact (rti_changes h).late
  | brk => exact (brk_changes h).late
  | stp => cases h; split <;> rfl
  | ldm => cases f with
    | immZp nn zz => exact ((Changes.advance s 3).write h).late
    | _ => cases h; rfl
  | clb | seb => cases f with
    | zpBit i zz => exact (modify_noFlag_changes (show bitZpOp _ i zz s = .ok t from h)).late
    | _ => cases h; rfl
  | bbc | bbs => cases f with
    | zpBitRel i zz rr => exact (bitBranchZpOp_changes h).late
    | _ => cases h; rfl
  | jmp => cases f with
    | mem m =>
      obtain ⟨⟨a, u⟩, hea, h⟩ := Res.bind_ok.mp h
      cases h
      exact ((Changes.advance s 3).onlyDraws (State.ea_onlyDraws hea)).late
    | indAbs p => exact (jmpIndOp_changes h).late
    | zpInd zz => exact (jmpZpIndOp_changes h).late
    | _ => cases h; rfl
  | jsr => cases f with
    | mem m => exact (jsrOp_changes State.ea_onlyDraws h).late
    | special ll => exact (jsrOp_changes (fun h => by cases h; exact OnlyDraws.refl _) h).late
    | zpInd zz => exact (jsrOp_changes State.zpPointer_onlyDraws h).late
    | _ => cases h; rfl
  | inx | dex | iny | dey | tax | txa | tay | tya | tsx | txs | sed | cli | sei | clt | set | clv
  | bra | bcc | bcs | bne | beq | bpl | bmi | bvc | bvs | wit | nop => cases h; rfl

/-- Settles O36: CLC, SEC and CLD with and without the hazard, and the instructions that leave it. -/
theorem carryAndDecimalFlags : Obligations.CarryAndDecimalFlags := by
  refine ⟨fun s i f b hmem => ?_, fun s t i h => ?_⟩
  · simp only [List.mem_cons, List.not_mem_nil, or_false, Prod.mk.injEq] at hmem
    rcases hmem with ⟨rfl, rfl, rfl⟩ | ⟨rfl, rfl, rfl⟩ | ⟨rfl, rfl, rfl⟩
    · exact ⟨_, rfl, carryOp_writesUnlessLate false s⟩
    · exact ⟨_, rfl, carryOp_writesUnlessLate true s⟩
    · exact ⟨_, rfl, cldOp_writesUnlessLate s⟩
  · rw [exec_eq_course] at h
    exact course_afterDecimal (finish_next.mp h)

end Sys2Proof.Machine
end

section
/-!
PROOFS. Jumps and branches: JMP, BRA, the branches on a flag, BBC and BBS (R142, R143, R260, R261, R263 to R272, R275,
R352).
-/

namespace Sys2Proof.Machine

variable {s t u : State} {R : List Reg} {F : List Flag} {as : List Addr} {v : Byte}

/-! ### PC -/

/-- PC is in no frame (R34). -/
theorem Leaves.setPc (h : Leaves s t R F as) (p : Addr) : Leaves s (t.setPc p) R F as := by
  obtain ⟨hregs, hrest⟩ := h
  exact ⟨fun r hr => (by cases r <;> rfl : (t.setPc p).reg r = t.reg r).trans (hregs r hr), hrest⟩

/-- A branch in the course of an instruction of `n` bytes goes where its offset says: adding the sign-extended offset
is adding it as a signed number, modulo 65536 (R107, R275). -/
theorem PassedBy.branchIf_pc {n : Nat} (hpassed : PassedBy s u n) (taken : Bool) (rr : Byte) :
    (u.branchIf taken rr).pc = s.branchDest n taken rr := by
  have hnext : u.pc = BitVec.ofInt 16 (s.pc.toNat + n) := by
    rw [hpassed, BitVec.ofInt_add, BitVec.ofInt_natCast, BitVec.ofInt_natCast, BitVec.ofNat_toNat, BitVec.setWidth_eq]
  cases taken with
  | true =>
    calc u.pc + sext16 rr = BitVec.ofInt 16 (s.pc.toNat + n) + BitVec.ofInt 16 rr.toInt := by rw [hnext]; rfl
      _ = s.branchDest n true rr := (BitVec.ofInt_add _ _).symm
  | false =>
    calc u.pc = BitVec.ofInt 16 (s.pc.toNat + n + 0) := by rw [hnext, add_zero]
      _ = s.branchDest n false rr := rfl

/-! ### JMP -/

/-- The pointer of `JMP ($hhll)` in plain memory is made of the bytes at its two addresses (R142). -/
theorem State.absPointer_of_plain {p : Addr} (hlo : s.isPlain p) (hhi : s.isPlain (p + 1)) :
    s.absPointer p = .ok (joinBytes (s.peek (p + 1)) (s.peek p), s) := by
  unfold State.absPointer
  rw [Res.bind_of_ok (State.read_plain hlo)]
  dsimp only
  rw [Res.bind_of_ok (State.read_plain hhi)]
  rfl

/-- `JMP ($hhll)` with an indirect address in plain memory that does not end in FF goes to the pointer there
(R142, R260). -/
theorem jmpIndOp_jumps {p : Addr} (hpage : lowByte p ≠ 0xFF) (hlo : s.isPlain p) (hhi : s.isPlain (p + 1)) :
    jmpIndOp p s = .ok ((s.advance 3).setPc (joinBytes (s.peek (p + 1)) (s.peek p))) := by
  have hpointer := State.absPointer_of_plain (s := s.advance 3) hlo hhi
  exact (if_neg hpage).trans (Res.bind_of_ok hpointer)

/-- `JMP ($hhFF)` stops (R142, R355). -/
theorem jmpIndOp_stops {p : Addr} (hpage : lowByte p = 0xFF) (s : State) :
    jmpIndOp p s = .error .jmpIndirectPageEnd :=
  if_pos hpage

/-- `JMP ($zz)` with a pointer in plain memory goes there (R143, R260). -/
theorem jmpZpIndOp_jumps {zz : Byte} (hlo : s.isPlain (zext16 zz)) (hhi : s.isPlain (s.nextZp zz)) :
    jmpZpIndOp zz s = .ok ((s.advance 2).setPc (joinBytes (s.peek (s.nextZp zz)) (s.peek (zext16 zz)))) := by
  have hpointer := State.zpPointer_of_plain (s := s.advance 2) hlo hhi
  exact Res.bind_of_ok hpointer

/-- Settles O39: JMP moves PC past the instruction and then to the operand, or to the pointer at the operand. -/
theorem jumpInstructions : Obligations.JumpInstructions := by
  intro s hhll zz
  refine ⟨⟨_, rfl, rfl, (Leaves.advance s 3).setPc hhll⟩, fun hpage hlo hhi => ?_, fun hpage => ?_,
    fun hlo hhi => ?_⟩
  · exact ⟨_, exec_of_course (i := .jmpInd hhll) rfl (jmpIndOp_jumps hpage hlo hhi), rfl,
      (Leaves.advance s 3).setPc _⟩
  · exact congrArg finish (jmpIndOp_stops hpage s)
  · exact ⟨_, exec_of_course (i := .jmpZpInd zz) rfl (jmpZpIndOp_jumps hlo hhi), rfl, (Leaves.advance s 2).setPc _⟩

/-! ### BRA and the branches on a flag -/

/-- A branch of two bytes moves PC and nothing else (R261, R265 to R272). -/
theorem branchOp_goes (taken : Bool) (rr : Byte) (s : State) :
    (branchOp taken rr s).pc = s.branchDest 2 taken rr ∧ Leaves s (branchOp taken rr s) [] [] [] :=
  ⟨PassedBy.branchIf_pc (u := s.advance 2) rfl taken rr, (branchOp_changes taken rr s).leaves⟩

/-- Settles O37: the nine are one operation, on a condition. -/
theorem relativeBranches : Obligations.RelativeBranches := by
  intro s rr i taken hmem
  refine ⟨branchOp taken rr s, ?_, branchOp_goes taken rr s⟩
  simp only [List.mem_cons, List.not_mem_nil, or_false, Prod.mk.injEq] at hmem
  rcases hmem with ⟨rfl, rfl⟩ | ⟨rfl, rfl⟩ | ⟨rfl, rfl⟩ | ⟨rfl, rfl⟩ | ⟨rfl, rfl⟩ | ⟨rfl, rfl⟩ | ⟨rfl, rfl⟩ |
    ⟨rfl, rfl⟩ | ⟨rfl, rfl⟩ <;> rfl

/-! ### BBC and BBS -/

/-- BBC and BBS on A are one operation, on the value the bit is to have (R263, R264). -/
theorem exec_bitBranchAcc (s : State) (k : BitNo) (rr : Byte) (b : Bool) :
    exec (if b then .bbsAcc k rr else .bbcAcc k rr) s = .next (bitBranchAccOp b k rr s) := by
  cases b <;> rfl

/-- BBC and BBS on a zero page byte are one operation, on the value the bit is to have (R263, R264). -/
theorem exec_bitBranchZp (s : State) (k : BitNo) (zz rr : Byte) (b : Bool) :
    exec (if b then .bbsZp k zz rr else .bbcZp k zz rr) s = finish (bitBranchZpOp b k zz rr s) := by
  cases b <;> rfl

/-- On a zero page byte that can be read the branch goes one way or the other, by the bit unless that is a request bit
just stored to (R263, R264, R352). -/
theorem bitBranchZpOp_goes (b : Bool) (k : BitNo) {zz : Byte} (rr : Byte) (hread : s.read (zext16 zz) = .ok (v, u)) :
    ∃ t taken, bitBranchZpOp b k zz rr s = .ok t ∧ t.pc = s.branchDest 3 taken rr ∧
      (s.staleRequestBit (zext16 zz) k = false → taken = (bitOf v k.toNat == b)) := by
  obtain ⟨j, -, hread⟩ := (SameView.advance s 3).read hread
  unfold bitBranchZpOp
  rw [Res.bind_of_ok hread]
  cases hstale : s.staleRequestBit (zext16 zz) k with
  | true => exact ⟨_, _, rfl, PassedBy.branchIf_pc (u := ((s.advance 3).draw j).draw 1) rfl _ rr, by simp⟩
  | false => exact ⟨_, _, rfl, PassedBy.branchIf_pc (u := (s.advance 3).draw j) rfl _ rr, fun _ => rfl⟩

/-- Settles O38: on A the bit decides; on a zero page byte the branch goes one way or the other, by the bit where it is
not a request bit just stored to. -/
theorem bitBranches : Obligations.BitBranches := by
  intro s b k zz rr
  refine ⟨⟨_, exec_bitBranchAcc s k rr b, PassedBy.branchIf_pc (u := s.advance 2) rfl _ rr,
    (bitBranchAccOp_changes b k rr s).leaves⟩, fun v u hread => ?_⟩
  obtain ⟨t, taken, hbranch, hpc, htaken⟩ := bitBranchZpOp_goes b k rr hread
  refine ⟨t, (exec_bitBranchZp s k zz rr b).trans (finish_next.mpr hbranch), (bitBranchZpOp_changes hbranch).leaves,
    fun hfresh => ?_, fun _ => ?_⟩
  · rw [hpc, htaken hfresh]
  · cases taken with
    | true => exact .inl hpc
    | false => exact .inr hpc

end Sys2Proof.Machine
end

section
/-!
PROOFS. Calls and returns: JSR, RTS and RTI, from what two pushes and two pulls in a row do (R37, R38, R72, R262, R273,
R274).
-/

namespace Sys2Proof.Machine

variable {s t u r : State} {ret : Addr}

/-! ### Words on the stack -/

/-- The stack addresses depend on the parameters only (R80). -/
theorem State.stackAt_congr (hcfg : t.cfg = s.cfg) (p : Byte) : t.stackAt p = s.stackAt p := by
  rw [State.stackAt, hcfg, State.stackAt]

/-- Two offsets in the stack page are one address only where they are the same (R80). -/
theorem State.stackAt_inj {p q : Byte} : s.stackAt p = s.stackAt q ↔ p = q :=
  joinBytes_inj.trans (and_iff_right rfl)

/-- A word pushed onto plain memory lies there with its high-order byte first; the second push leaves the first byte,
since it goes to another address (R37, R72). -/
theorem State.pushWord_called (v : Addr) (h : s.canCall) : ∃ t, s.pushWord v = .ok t ∧ Called s t v := by
  obtain ⟨hhigh, hlow⟩ := h
  obtain ⟨w, hpush, ⟨hstored, -⟩, hsp, hleaves⟩ := State.push_stores (highByte v) (.inl hhigh)
  have hkeeps := State.push_keeps hpush
  have haddr : w.stackAt w.sp = s.stackAt (s.sp - 1) := by rw [State.stackAt_congr hkeeps.cfg, hsp]
  have hram : w.isRam (w.stackAt w.sp) := by rw [haddr]; exact (hkeeps.kinds _).trans hlow
  obtain ⟨t, hpush', ⟨hstored', -⟩, hsp', hleaves'⟩ := State.push_stores (lowByte v) (.inl hram)
  rw [haddr] at hstored' hleaves' hram
  have hne : s.stackAt s.sp ≠ s.stackAt (s.sp - 1) := fun h => by
    have := State.stackAt_inj.mp h
    bv_omega
  have hframe := hleaves.trans hleaves'
  obtain ⟨-, -, hpeek, -⟩ := hleaves'
  refine ⟨t, (Res.bind_of_ok hpush).trans hpush', ?_, ?_, hstored' hram, ?_⟩
  · rw [hsp', hsp]
    exact BitVec.sub_sub ..
  · rw [hpeek _ (by simpa using hne), hstored hhigh]
  · exact hframe.weaken (by decide) (by decide)

/-- A word pushed in the course of an instruction (R72, R160). -/
theorem advance_pushWord_called (n : Nat) (v : Addr) (h : s.canCall) :
    ∃ w, (s.advance n).pushWord v = .ok w ∧ Called s w v := by
  obtain ⟨w, hpush, hsp, hhigh, hlow, hleaves⟩ := State.pushWord_called (s := s.advance n) v h
  exact ⟨w, hpush, hsp, hhigh, hlow, (Leaves.advance s n).trans hleaves⟩

/-- A byte pulled from a stack address that reads as it holds (R38). -/
theorem State.pull_of_plain (h : s.isPlain (s.stackAt (s.sp + 1))) :
    s.pull = .ok (s.peek (s.stackAt (s.sp + 1)), s.setSp (s.sp + 1)) :=
  State.read_plain (s := s.setSp (s.sp + 1)) h

/-- A word pulled from stack addresses that read as they hold, low-order byte first (R38, R72). -/
theorem State.pullWord_of_plain (hlow : s.isPlain (s.stackAt (s.sp + 1))) (hhigh : s.isPlain (s.stackAt (s.sp + 2))) :
    s.pullWord =
      .ok (joinBytes (s.peek (s.stackAt (s.sp + 2))) (s.peek (s.stackAt (s.sp + 1))), s.setSp (s.sp + 2)) := by
  have htwo : s.sp + 1 + 1 = s.sp + 2 := BitVec.add_assoc ..
  rw [← htwo] at hhigh ⊢
  have hpull : (s.setSp (s.sp + 1)).pull = .ok (s.peek (s.stackAt (s.sp + 1 + 1)), s.setSp (s.sp + 1 + 1)) :=
    State.pull_of_plain (s := s.setSp (s.sp + 1)) hhigh
  unfold State.pullWord
  rw [Res.bind_of_ok (State.pull_of_plain hlow)]
  dsimp only
  rw [Res.bind_of_ok hpull]
  rfl

/-! ### JSR -/

/-- PC and free values are no part of what a call does (R262). -/
theorem Called.goTo (h : Called s t ret) (hdraws : OnlyDraws t u) (p : Addr) : Called s (u.setPc p) ret := by
  obtain ⟨k, rfl⟩ := hdraws
  obtain ⟨hsp, hhigh, hlow, hleaves⟩ := h
  exact ⟨hsp, hhigh, hlow, (hleaves.draw k).setPc p⟩

/-- A JSR whose destination is found after the pushes, by reads that have no effect, calls and goes there (R262). -/
theorem jsrOp_goes (n : Nat) {target : State → Res (Addr × State)} {p : State → Addr} (h : s.canCall)
    (htarget : ∀ w, Keeps s w → target w = .ok (p w, w)) :
    ∃ w : State, jsrOp n target s = .ok (w.setPc (p w)) ∧
      Called s (w.setPc (p w)) (s.pc + BitVec.ofNat 16 (n - 1)) := by
  obtain ⟨w, hpush, hcalled⟩ := advance_pushWord_called n (s.pc + BitVec.ofNat 16 (n - 1)) h
  have hfound := htarget w ((s.advance_keeps n).trans (State.pushWord_keeps hpush))
  exact ⟨w, (Res.bind_of_ok hpush).trans (Res.bind_of_ok hfound), hcalled.goTo (OnlyDraws.refl w) _⟩

/-- Settles O40: the two pushes leave the address of the last byte on the stack, and the pointer of `JSR ($zz)` is read
as they leave it. -/
theorem subroutineCalls : Obligations.SubroutineCalls := by
  intro s hhll zz ll h
  refine ⟨?_, ?_, fun hlo hhi => ?_⟩
  · obtain ⟨w, hjsr, hcalled⟩ := jsrOp_goes 3 (p := fun _ => hhll) h fun _ _ => rfl
    exact ⟨_, finish_next.mpr hjsr, rfl, hcalled⟩
  · obtain ⟨w, hjsr, hcalled⟩ := jsrOp_goes 2 (p := fun _ => joinBytes 0xFF ll) h fun _ _ => rfl
    exact ⟨_, finish_next.mpr hjsr, joinBytes_toNat 0xFF ll, hcalled⟩
  · have hpointer (w : State) (hkeeps : Keeps s w) :
        w.zpPointer zz = .ok (joinBytes (w.peek (s.nextZp zz)) (w.peek (zext16 zz)), w) := by
      have hnext : w.nextZp zz = s.nextZp zz := by simp only [State.nextZp, hkeeps.cfg]
      rw [← hnext]
      apply State.zpPointer_of_plain
      · rwa [State.isPlain, hkeeps.kinds]
      · rwa [State.isPlain, hkeeps.kinds, hnext]
    obtain ⟨w, hjsr, hcalled⟩ := jsrOp_goes 2 h hpointer
    exact ⟨_, finish_next.mpr hjsr, rfl, hcalled⟩

/-- Every JSR is one operation, of as many bytes as the instruction has, with a destination found by reads only
(R262). -/
theorem exec_of_jsr {i : Instr} (hi : i.mnemonic = .jsr) (s : State) :
    ∃ target, exec i s = finish (jsrOp i.len target s) ∧ 0 < i.len ∧
      ∀ {u w : State} {v : Addr}, target u = .ok (v, w) → OnlyDraws u w := by
  cases i with
  | jsrAbs hhll => exact ⟨_, rfl, Nat.succ_pos _, fun h => by cases h; exact OnlyDraws.refl _⟩
  | jsrSp ll => exact ⟨_, rfl, Nat.succ_pos _, fun h => by cases h; exact OnlyDraws.refl _⟩
  | jsrZpInd zz => exact ⟨_, rfl, Nat.succ_pos _, State.zpPointer_onlyDraws⟩
  | _ => cases hi

/-- A JSR that completes has called (R262). -/
theorem jsrOp_called {n : Nat} {target : State → Res (Addr × State)} (h : s.canCall)
    (htarget : ∀ {u w : State} {v : Addr}, target u = .ok (v, w) → OnlyDraws u w) (hjsr : jsrOp n target s = .ok t) :
    Called s t (s.pc + BitVec.ofNat 16 (n - 1)) := by
  obtain ⟨w, hpush, hjsr⟩ := Res.bind_ok.mp hjsr
  obtain ⟨⟨p, u⟩, hfound, hjsr⟩ := Res.bind_ok.mp hjsr
  cases hjsr
  obtain ⟨w', hpush', hcalled⟩ := advance_pushWord_called n (s.pc + BitVec.ofNat 16 (n - 1)) h
  cases hpush.symm.trans hpush'
  exact hcalled.goTo (htarget hfound) p

/-! ### RTS -/

/-- RTS goes to the address pulled plus 1 (R274). -/
theorem rtsOp_returns (hlow : s.isPlain (s.stackAt (s.sp + 1))) (hhigh : s.isPlain (s.stackAt (s.sp + 2))) :
    ∃ t, rtsOp s = .ok t ∧ t.sp = s.sp + 2 ∧ Leaves s t [.sp] [] [] ∧
      t.pc = joinBytes (s.peek (s.stackAt (s.sp + 2))) (s.peek (s.stackAt (s.sp + 1))) + 1 := by
  have hpull := State.pullWord_of_plain (s := s.advance 1) hlow hhigh
  have hrts : rtsOp s = .ok (((s.advance 1).setSp (s.sp + 2)).setPc
      (joinBytes (s.peek (s.stackAt (s.sp + 2))) (s.peek (s.stackAt (s.sp + 1))) + 1)) := Res.bind_of_ok hpull
  exact ⟨_, hrts, rfl, (rtsOp_changes hrts).leaves, rfl⟩

/-- An RTS that finds S and the two bytes as a call left them goes to the address after the one pushed, with S as before
the call (R262, R274). -/
theorem rtsOp_after_call (h : s.canCall) (hcalled : Called s t ret) (hkeeps : Keeps s t)
    (hkept : StackKept t r [s.stackAt s.sp, s.stackAt (s.sp - 1)]) :
    ∃ u, rtsOp r = .ok u ∧ u.pc = ret + 1 ∧ u.sp = s.sp ∧ Leaves r u [.sp] [] [] := by
  obtain ⟨hram, hram'⟩ := h
  obtain ⟨hsp, hhigh, hlow, -⟩ := hcalled
  obtain ⟨hsame, ⟨hcfg, hsrcs⟩, hbytes⟩ := hkept
  have hkind (a : Addr) : r.kindAt a = s.kindAt a := (State.kindAt_congr hcfg hsrcs a).trans (hkeeps.kinds a)
  have hback : r.sp + 2 = s.sp := by rw [hsame, hsp, BitVec.sub_add_cancel]
  have hback' : r.sp + 1 = s.sp - 1 := by rw [← hback]; bv_omega
  have haddr (p : Byte) : r.stackAt p = s.stackAt p := State.stackAt_congr (hcfg.trans hkeeps.cfg) p
  have hplain : r.isPlain (r.stackAt (r.sp + 1)) := .inl (by rw [hback', haddr, hkind]; exact hram')
  have hplain' : r.isPlain (r.stackAt (r.sp + 2)) := .inl (by rw [hback, haddr, hkind]; exact hram)
  obtain ⟨u, hrts, husp, hleaves, hpc⟩ := rtsOp_returns hplain hplain'
  refine ⟨u, hrts, ?_, husp.trans hback, hleaves⟩
  rw [hpc, hback, hback', haddr, haddr, hbytes _ (by simp), hbytes _ (by simp), hhigh, hlow, joinBytes_high_low]

/-- The address after that of an instruction's last byte is the address after the instruction (R35). -/
theorem lastByte_add_one (a : Addr) {n : Nat} (hn : 0 < n) :
    a + BitVec.ofNat 16 (n - 1) + 1 = a + BitVec.ofNat 16 n := by
  obtain ⟨k, rfl⟩ := Nat.exists_eq_succ_of_ne_zero hn.ne'
  rw [Nat.succ_sub_one, Nat.succ_eq_add_one, BitVec.ofNat_add, BitVec.add_assoc]
  rfl

/-- Settles O41: RTS adds 1 to the address pulled, and a JSR pushes the address one below that after it. -/
theorem subroutineReturn : Obligations.SubroutineReturn := by
  refine ⟨fun s hlow hhigh => ?_, fun s t r i h hi hexec hkept => ?_⟩
  · obtain ⟨t, hrts, hreturned⟩ := rtsOp_returns hlow hhigh
    exact ⟨t, finish_next.mpr hrts, hreturned⟩
  · obtain ⟨target, hcourse, hlen, htarget⟩ := exec_of_jsr hi s
    have hjsr : jsrOp i.len target s = .ok t := finish_next.mp (hcourse.symm.trans hexec)
    obtain ⟨u, hrts, hpc, hreturned⟩ :=
      rtsOp_after_call h (jsrOp_called h htarget hjsr) (jsrOp_changes htarget hjsr).keeps hkept
    exact ⟨u, finish_next.mpr hrts, hpc.trans (lastByte_add_one s.pc hlen), hreturned⟩

/-! ### RTI -/

/-- The return from interrupt on a stack that reads as it holds: PS, then PC, with S back by three (R273, R324). -/
theorem State.returnFromInterrupt_of_plain (hps : s.isPlain (s.stackAt (s.sp + 1)))
    (hlow : s.isPlain (s.stackAt (s.sp + 2))) (hhigh : s.isPlain (s.stackAt (s.sp + 3))) :
    s.returnFromInterrupt =
      .ok (((s.setPs (Status.ofByte (s.peek (s.stackAt (s.sp + 1))))).setSp (s.sp + 3)).setPc
        (joinBytes (s.peek (s.stackAt (s.sp + 3))) (s.peek (s.stackAt (s.sp + 2))))) := by
  have htwo : s.sp + 1 + 1 = s.sp + 2 := BitVec.add_assoc ..
  have hthree : s.sp + 1 + 2 = s.sp + 3 := BitVec.add_assoc ..
  rw [← htwo] at hlow ⊢
  rw [← hthree] at hhigh ⊢
  have hpull := State.pullWord_of_plain
    (s := (s.setSp (s.sp + 1)).setPs (Status.ofByte (s.peek (s.stackAt (s.sp + 1))))) hlow hhigh
  exact (Res.bind_of_ok (State.pull_of_plain hps)).trans (Res.bind_of_ok hpull)

/-- Settles O42: the bits of the first byte pulled are the flags, and the two others are PC as pulled. -/
theorem returnFromInterrupt : Obligations.ReturnFromInterrupt := by
  intro s hps hlow hhigh
  have hrti := State.returnFromInterrupt_of_plain (s := s.advance 1) hps hlow hhigh
  exact ⟨_, finish_next.mpr hrti, rfl, Status.get_ofByte _, rfl, (rti_changes hrti).leaves⟩

end Sys2Proof.Machine
end

section
/-!
PROOFS. The interrupt entry by its two halves, and BRK; WIT, STP and NOP (R51, R290 to R293, R320, R321, R323).
-/

namespace Sys2Proof.Machine

variable {s t u w : State} {R : List Reg} {F : List Flag} {as : List Addr} {ret vec : Addr} {b : Bool}

/-! ### The pushes of an interrupt entry -/

/-- A frame that names no flag keeps PS (R36). -/
theorem Leaves.ps (h : Leaves s t R [] as) : t.ps = s.ps := by
  obtain ⟨-, hflags, -⟩ := h
  exact Status.ext_get fun f => hflags f List.not_mem_nil

/-- The first half of an interrupt entry from `s` has led to `u`: the return address and PS with the break flag `b` lie
on the stack (R320). -/
def EntryPushed (s u : State) (ret : Addr) (b : Bool) : Prop :=
  u.sp = s.sp - 3 ∧
  u.peek (s.stackAt s.sp) = highByte ret ∧
  u.peek (s.stackAt (s.sp - 1)) = lowByte ret ∧
  u.peek (s.stackAt (s.sp - 2)) = (s.ps.set .b b).toByte ∧
  u.flag .b = b ∧
  Leaves s u [.sp] [.b] [s.stackAt s.sp, s.stackAt (s.sp - 1), s.stackAt (s.sp - 2)]

/-- On three stack addresses of plain memory the pushes complete, and the third leaves the bytes of the first two
(R320). -/
theorem State.enterPushes_pushed (hhigh : s.isRam (s.stackAt s.sp)) (hlow : s.isRam (s.stackAt (s.sp - 1)))
    (hps : s.isRam (s.stackAt (s.sp - 2))) (b : Bool) :
    ∃ u, s.enterPushes b = .ok u ∧ EntryPushed s u s.pc b := by
  obtain ⟨w, hword, hsp, hpeekHigh, hpeekLow, hframe⟩ :=
    State.pushWord_called (s := s.setFlag .b b) s.pc ⟨hhigh, hlow⟩
  have hkeeps := (s.setFlag_keeps .b b).trans (State.pushWord_keeps hword)
  have hstatus : w.ps = s.ps.set .b b := hframe.ps
  have haddr : w.stackAt w.sp = s.stackAt (s.sp - 2) := by rw [State.stackAt_congr hkeeps.cfg, hsp]; rfl
  have hram : w.isRam (w.stackAt w.sp) := by rw [haddr]; exact (hkeeps.kinds _).trans hps
  obtain ⟨u, hpush, ⟨hstored, -⟩, husp, hframe'⟩ := State.push_stores w.ps.toByte (.inl hram)
  rw [haddr] at hstored hframe' hram
  have hleaves := (((Leaves.refl s).setFlag .b b).trans hframe).trans hframe'
  have hups : u.ps = s.ps.set .b b := hframe'.ps.trans hstatus
  obtain ⟨-, -, hpeek, -⟩ := hframe'
  have hother {p : Byte} (hp : p ≠ s.sp - 2) : u.peek (s.stackAt p) = w.peek (s.stackAt p) :=
    hpeek _ (by simpa [State.stackAt_inj] using hp)
  refine ⟨u, (Res.bind_of_ok hword).trans hpush, ?_, (hother (by bv_omega)).trans hpeekHigh,
    (hother (by bv_omega)).trans hpeekLow, ?_, ?_, hleaves.weaken (by decide) (by decide)⟩
  · rw [husp, hsp]
    exact BitVec.sub_sub ..
  · rw [hstored hram, hstatus]
  · rw [State.flag, hups, Status.get_set, if_pos rfl]

/-- A frame stays one when the request and enable bits are changed alike on both sides, the sources kept (R310). -/
theorem Leaves.changeLines {g : List Line → List Line} (hg : ∀ ls, (g ls).map Line.src = ls.map Line.src)
    (h : Leaves s t R F as) : Leaves (s.setLines (g s.lines)) (t.setLines (g t.lines)) R F as := by
  obtain ⟨hregs, hflags, hpeek, hlines, hrest⟩ := h
  refine ⟨fun r hr => ?_, hflags, hpeek, fun hreach => congrArg g (hlines fun l hl => ?_), hrest⟩
  · have hreg := hregs r hr
    cases r <;> exact hreg
  · have hsrc : l.src ∈ (g s.lines).map Line.src := hg s.lines ▸ List.mem_map_of_mem hl
    obtain ⟨k, hk, hkl⟩ := List.mem_map.mp hsrc
    exact hkl ▸ hreach k hk

/-- The pushes of an entry stay what they are when the request and enable bits are changed alike on both sides (R310). -/
theorem EntryPushed.changeLines {g : List Line → List Line} (hg : ∀ ls, (g ls).map Line.src = ls.map Line.src)
    (h : EntryPushed s u ret b) : EntryPushed (s.setLines (g s.lines)) (u.setLines (g u.lines)) ret b := by
  obtain ⟨hsp, hhigh, hlow, hps, hflag, hleaves⟩ := h
  exact ⟨hsp, hhigh, hlow, hps, hflag, hleaves.changeLines hg⟩

/-! ### The vector -/

/-- A vector table entry that reads as it holds is made of its two bytes, low-order byte first, as a pointer of
`JMP ($hhll)` is (R72, R81). -/
theorem State.readVector_of_plain (hlow : s.isPlain vec) (hhigh : s.isPlain (vec + 1)) :
    s.readVector vec = .ok (joinBytes (s.peek (vec + 1)) (s.peek vec), s) :=
  State.absPointer_of_plain hlow hhigh

/-- The second half completes an interrupt entry: I is 1, and PC is the vector table entry as the pushes leave it
(R320, R321). -/
theorem EntryPushed.enterVector (h : EntryPushed s u ret b) (hlow : u.isPlain vec) (hhigh : u.isPlain (vec + 1)) :
    ∃ t, u.enterVector vec = .ok t ∧ Entered s t ret vec b := by
  obtain ⟨hsp, hpeekHigh, hpeekLow, hps, hflag, hleaves⟩ := h
  have hvector := State.readVector_of_plain (s := u.setFlag .i true) hlow hhigh
  have hframe := ((hleaves.setFlag .i true).setPc (joinBytes (u.peek (vec + 1)) (u.peek vec))).weaken
    (R' := [.sp]) (F' := [.b, .i]) (by decide) (by decide)
  exact ⟨_, Res.bind_of_ok hvector, hsp, hpeekHigh, hpeekLow, hps,
    (State.flag_setFlag_ne u true (by decide)).trans hflag, State.flag_setFlag_same u .i true, rfl, hframe⟩

/-- An address goes on reading as it holds (R71). -/
theorem Keeps.isPlain {a : Addr} (hkeeps : Keeps s t) (h : s.isPlain a) : t.isPlain a := by
  rwa [State.isPlain, hkeeps.kinds]

/-- Where an entry cannot stop the model, its pushes complete (R320). -/
theorem State.enterPushes_of_canEnter (h : s.canEnter vec) (b : Bool) :
    ∃ u, s.enterPushes b = .ok u ∧ EntryPushed s u s.pc b ∧ Keeps s u := by
  obtain ⟨hhigh, hlow, hps, -⟩ := h
  obtain ⟨u, hpushes, hpushed⟩ := State.enterPushes_pushed hhigh hlow hps b
  exact ⟨u, hpushes, hpushed, State.enterPushes_keeps hpushes⟩

/-- Where an entry cannot stop the model, the entry sequence makes it with PC as return address (R320). -/
theorem State.enter_entered (h : s.canEnter vec) (b : Bool) :
    ∃ t, s.enter vec b = .ok t ∧ Entered s t s.pc vec b := by
  obtain ⟨u, hpushes, hpushed, hkeeps⟩ := State.enterPushes_of_canEnter h b
  obtain ⟨-, -, -, hlow, hhigh⟩ := h
  obtain ⟨t, hvector, hentered⟩ := hpushed.enterVector (hkeeps.isPlain hlow) (hkeeps.isPlain hhigh)
  exact ⟨t, (Res.bind_of_ok hpushes).trans hvector, hentered⟩

/-- That an instruction moves PC and draws before it enters is no part of the entry (R160, R290). -/
theorem Entered.after_advance {n : Nat} (hdraws : OnlyDraws (s.advance n) w) (h : Entered w t ret vec b) :
    Entered s t ret vec b := by
  obtain ⟨k, rfl⟩ := hdraws
  obtain ⟨hsp, hhigh, hlow, hps, hflag, hi, hpc, hleaves⟩ := h
  exact ⟨hsp, hhigh, hlow, hps, hflag, hi, hpc, ((Leaves.advance s n).draw k).trans hleaves⟩

/-! ### BRK -/

variable {pre post ms : List Line} {l : Line}

/-- With I = 0, or with no source pending, the software interrupt is the entry as written (R290). -/
theorem State.softwareInterrupt_of_none (h : s.flag .i = false ∨ ∀ l ∈ s.lines, l.pending = false) :
    s.softwareInterrupt = s.enter s.cfg.brkVector true := by
  unfold State.softwareInterrupt
  rcases h with h | h
  · rw [h]
  · have hnone : s.firstPending = none := List.find?_eq_none.mpr fun l hl => by simp [h l hl]
    rw [hnone]
    split
    · contradiction
    · rfl

/-- With I = 1, the pushes are followed by the BRK vector, or by `Accept` and the vector of the source that was pending
before them, as a draw decides (R323; D16, log 22). -/
theorem State.softwareInterrupt_of_pending (hi : s.flag .i = true) (hlines : s.lines = pre ++ l :: post)
    (hl : l.pending = true) (hpre : ∀ k ∈ pre, k.pending = false) :
    s.softwareInterrupt = (do
      let u ← (s.draw 1).enterPushes true
      if Config.freeBit s.draws then
        (u.setLines (u.lines.modify pre.length Line.accepted)).enterVector l.src.vector
      else u.enterVector u.cfg.brkVector) := by
  have hfirst : s.firstPending = some l := by
    rw [State.firstPending, hlines, List.find?_append, List.find?_eq_none.mpr fun k hk => by simp [hpre k hk]]
    simp [hl]
  unfold State.softwareInterrupt
  simp only [hi, hfirst, hlines, acceptFirst_split hl hpre]

/-- `Accept(src)` at the place of the source (R311). -/
theorem modify_accepted (pre post : List Line) (l : Line) :
    (pre ++ l :: post).modify pre.length Line.accepted = pre ++ l.accepted :: post := by
  induction pre with
  | nil => rfl
  | cons k pre ih => exact congrArg (k :: ·) ih

/-- With I = 0 or no source pending, BRK is an interrupt entry with B = 1 and the address of BRK plus 2 (R290, R321). -/
theorem brk_entered (hbrk : s.canEnter s.cfg.brkVector) (h : s.flag .i = false ∨ ∀ l ∈ s.lines, l.pending = false) :
    ∃ t, (s.advance 2).softwareInterrupt = .ok t ∧ Entered s t (s.pc + 2) s.cfg.brkVector true := by
  obtain ⟨t, henter, hentered⟩ := State.enter_entered (s := s.advance 2) hbrk true
  exact ⟨t, (State.softwareInterrupt_of_none (s := s.advance 2) h).trans henter,
    hentered.after_advance (OnlyDraws.refl _)⟩

/-- With I = 1 and a source pending, BRK is that, or the entry through the source's vector with the source accepted
(R323). -/
theorem brk_entered_of_pending (hbrk : s.canEnter s.cfg.brkVector) (hi : s.flag .i = true)
    (haccepts : Accepts s.lines l ms) (hvec : s.canEnter l.src.vector) :
    ∃ t, (s.advance 2).softwareInterrupt = .ok t ∧ (Entered s t (s.pc + 2) s.cfg.brkVector true ∨
      Entered (s.setLines ms) t (s.pc + 2) l.src.vector true) := by
  obtain ⟨pre, post, hlines, hl, hpre, rfl⟩ := haccepts
  have hsrcs (ls : List Line) : (ls.modify pre.length Line.accepted).map Line.src = ls.map Line.src := by
    rw [← acceptFirst_split (post := post) hl hpre, acceptFirst_srcs]
  obtain ⟨u, hpushes, hpushed, hkeeps⟩ := State.enterPushes_of_canEnter (s := (s.advance 2).draw 1) hbrk true
  have hcourse := (State.softwareInterrupt_of_pending (s := s.advance 2) hi hlines hl hpre).trans
    (Res.bind_of_ok hpushes)
  split at hcourse
  · obtain ⟨-, -, -, hlow, hhigh⟩ := hvec
    have hkeeps' := hkeeps.trans (Keeps.setLines u (hsrcs u.lines))
    obtain ⟨t, hvector, hentered⟩ := (hpushed.changeLines hsrcs).enterVector
      (hkeeps'.isPlain hlow) (hkeeps'.isPlain hhigh)
    rw [← modify_accepted, ← hlines]
    exact ⟨t, hcourse.trans hvector, .inr (hentered.after_advance ⟨1, rfl⟩)⟩
  · obtain ⟨-, -, -, hlow, hhigh⟩ := hbrk
    obtain ⟨t, hvector, hentered⟩ := hpushed.enterVector (hkeeps.isPlain hlow) (hkeeps.isPlain hhigh)
    rw [hkeeps.cfg] at hcourse
    exact ⟨t, hcourse.trans hvector, .inl (hentered.after_advance ⟨1, rfl⟩)⟩

/-- Settles O43: BRK pushes, and then takes its own vector or, with I = 1, that of the source that was pending. -/
theorem breakInstruction : Obligations.BreakInstruction := by
  refine ⟨fun s hbrk => ⟨fun hnone => ?_, fun l ms hi haccepts hvec => ?_⟩,
    fun s t pre post l hi hlines hl hpre hexec => ?_⟩
  · obtain ⟨t, ht, hentered⟩ := brk_entered hbrk hnone
    exact ⟨t, finish_next.mpr ht, hentered⟩
  · obtain ⟨t, ht, hentered⟩ := brk_entered_of_pending hbrk hi haccepts hvec
    exact ⟨t, finish_next.mpr ht, hentered⟩
  · have hcourse := State.softwareInterrupt_of_pending (s := s.advance 2) hi hlines hl hpre
    obtain ⟨u, hpushes, hvector⟩ := Res.bind_ok.mp (hcourse.symm.trans (finish_next.mp hexec))
    refine ⟨u, hpushes, ?_⟩
    split at hvector
    · exact .inr hvector
    · rw [(State.enterPushes_keeps hpushes).cfg] at hvector
      exact .inl hvector

/-! ### WIT, STP and NOP -/

/-- STP stops the CPU where the product has it enabled, and is one NOP where not (R292). -/
theorem exec_stp (s : State) :
    exec .stp s = .next ((s.advance 1).setRun (if s.cfg.stpEnabled then .stopped else s.run)) := by
  rw [show exec .stp s = execStp s from rfl, execStp]
  split <;> rfl

/-- Settles O46: each of the three moves PC, and WIT and STP set the run state. -/
theorem waitStopAndNoOperation : Obligations.WaitStopAndNoOperation := by
  intro s
  have hleaves : Leaves s (s.advance 1) [] [] [] := Leaves.advance s 1
  exact ⟨⟨_, rfl, rfl, rfl, hleaves⟩, ⟨_, exec_stp s, rfl, rfl, hleaves⟩, ⟨_, rfl, rfl, hleaves⟩⟩

end Sys2Proof.Machine
end

section
/-!
PROOFS. The request and enable bit of an interrupt source at their places in memory: reads and stores there (R71, R310,
R311).
-/

namespace Sys2Proof.Machine

variable {s t : State} {l : Line} {pre post : List Line} {a : Addr} {v : Byte}

/-! ### The places of the bits -/

theorem Source.occupies_iff (c : Source) (a : Addr) :
    Source.occupies c a = true ↔ a = c.requestAddr ∨ a = c.enableAddr := by
  simp only [Source.occupies, Bool.or_eq_true, beq_iff_eq, @eq_comm Addr a]

/-- An address where a request or enable bit lies is I/O, whatever the map says (R71, R310). -/
theorem State.kindAt_of_occupied (hl : l ∈ s.lines) (h : Source.occupies l.src a = true) : s.kindAt a = .io := by
  have hany : (s.lines.any fun k => Source.occupies k.src a) = true := List.any_eq_true.mpr ⟨l, hl, h⟩
  rw [State.kindAt, if_pos hany]

/-! ### Reads -/

theorem bitOf_putBit_bitNo (v : Byte) (i j : BitNo) (b : Bool) :
    bitOf (putBit v i.toNat b) j.toNat = if i = j then b else bitOf v j.toNat := by
  rw [bitOf_putBit v _ _ b i.isLt j.isLt]
  simp only [BitVec.toNat_inj, @eq_comm BitNo j]

/-- Bit `j` of a byte in which a source is shown; where both of its bits lie there, the enable bit is seen (R310). -/
theorem Line.bitOf_shownIn (l : Line) (a : Addr) (v : Byte) (j : BitNo) :
    bitOf (l.shownIn a v) j.toNat =
      if l.src.enableAddr = a ∧ l.src.enableBit = j then l.enable
      else if l.src.requestAddr = a ∧ l.src.requestBit = j then l.request
      else bitOf v j.toNat := by
  simp only [Line.shownIn, apply_ite (bitOf · j.toNat), bitOf_putBit_bitNo, ite_and]

/-- Sources with no bit at a place leave the bit there as it is (R310). -/
theorem bitOf_shownIn_foldl {j : BitNo} {ls : List Line}
    (h : ∀ k ∈ ls, ¬(k.src.requestAddr = a ∧ k.src.requestBit = j) ∧ ¬(k.src.enableAddr = a ∧ k.src.enableBit = j))
    (v : Byte) : bitOf (ls.foldl (fun v k => k.shownIn a v) v) j.toNat = bitOf v j.toNat := by
  induction ls generalizing v with
  | nil => rfl
  | cons k ls ih =>
    obtain ⟨⟨hrequest, henable⟩, hrest⟩ := List.forall_mem_cons.mp h
    rw [List.foldl_cons, ih hrest, Line.bitOf_shownIn, if_neg henable, if_neg hrequest]

/-- What is read at the place of a source's bit is what that source shows, unless a later one has a bit there
(R71, R310). -/
theorem State.bitOf_read {j : BitNo} (hlines : s.lines = pre ++ l :: post) (hocc : Source.occupies l.src a = true)
    (hread : s.read a = .ok (v, t))
    (hpost : ∀ k ∈ post,
      ¬(k.src.requestAddr = a ∧ k.src.requestBit = j) ∧ ¬(k.src.enableAddr = a ∧ k.src.enableBit = j)) :
    ∃ w, bitOf v j.toNat = bitOf (l.shownIn a w) j.toNat := by
  have hio : s.kindAt a = .io := State.kindAt_of_occupied (by simp [hlines]) hocc
  rcases State.read_ok hread with ⟨hplain, -⟩ | ⟨-, -, rfl⟩
  · simp [hio] at hplain
  · rw [hlines, List.foldl_append, List.foldl_cons, bitOf_shownIn_foldl hpost]
    exact ⟨_, rfl⟩

/-! ### Stores -/

/-- A store of 0 to a source's request bit clears it, whatever the platform makes of the store (R311). -/
theorem Line.stored_request_clear (n : Nat) (h : bitOf v l.src.requestBit.toNat = false) :
    (l.stored n l.src.requestAddr v).request = false := by
  simp [Line.stored, h]

/-- A store elsewhere leaves the request bit, unless the platform says that it reaches the source (R310, log 8). -/
theorem Line.stored_request_keep (n : Nat) (v : Byte) (hne : a ≠ l.src.requestAddr) (hfar : a ∉ l.src.reachedFrom) :
    (l.stored n a v).request = l.request := by
  simp [Line.stored, hne.symm, hfar]

/-- The enable bit takes the value stored to it (R310). -/
theorem Line.stored_enable_set (l : Line) (n : Nat) (v : Byte) :
    (l.stored n l.src.enableAddr v).enable = bitOf v l.src.enableBit.toNat := by
  simp [Line.stored]

/-- A store elsewhere leaves the enable bit, unless the platform says that it reaches the source (R310, log 8). -/
theorem Line.stored_enable_keep (n : Nat) (v : Byte) (hne : a ≠ l.src.enableAddr) (hfar : a ∉ l.src.reachedFrom) :
    (l.stored n a v).enable = l.enable := by
  simp [Line.stored, hne.symm, hfar]

/-- A store where a source's bit lies completes, and that source is stored to in its place of the list (R71, R310). -/
theorem State.write_line (hlines : s.lines = pre ++ l :: post) (hocc : Source.occupies l.src a = true) (v : Byte) :
    ∃ t n, s.write a v = .ok t ∧ t.lines[pre.length]? = some (l.stored n a v) := by
  have hio : s.kindAt a = .io := State.kindAt_of_occupied (by simp [hlines]) hocc
  obtain ⟨t, hwrite, ⟨-, hstored, -⟩, -⟩ := State.write_of_writable v (.inr (.inl hio))
  obtain ⟨n, hstored⟩ := hstored hio
  exact ⟨t, n, hwrite, by simp [hstored, hlines]⟩

/-- Settles O7: the source shows its bits where they lie, and a store there is a store to it. -/
theorem requestAndEnableBitsInMemory : Obligations.RequestAndEnableBitsInMemory := by
  intro s l pre post hlines
  refine ⟨fun v t hread happart hpost => ?_, fun v t hread hpost => ?_, fun a v hplace => ?_⟩
  · obtain ⟨w, hbit⟩ := State.bitOf_read hlines ((Source.occupies_iff _ _).mpr (.inl rfl)) hread hpost
    rw [hbit, Line.bitOf_shownIn, if_neg happart, if_pos ⟨rfl, rfl⟩]
  · obtain ⟨w, hbit⟩ := State.bitOf_read hlines ((Source.occupies_iff _ _).mpr (.inr rfl)) hread hpost
    rw [hbit, Line.bitOf_shownIn, if_pos ⟨rfl, rfl⟩]
  · obtain ⟨t, n, hwrite, hline⟩ := State.write_line hlines ((Source.occupies_iff _ _).mpr hplace) v
    refine ⟨t, l.stored n a v, hwrite, hline, rfl, ?_, Line.stored_request_keep n v, ?_, Line.stored_enable_keep n v⟩
    · rintro rfl hzero
      exact Line.stored_request_clear n hzero
    · rintro rfl
      exact l.stored_enable_set n v

end Sys2Proof.Machine
end

section
/-!
PROOFS. The wait and stop state, the acceptance of an interrupt and the return from it (R273, R312, R313, R320, R324,
R326).
-/

namespace Sys2Proof.Machine

variable {s t r : State} {l : Line} {ms : List Line} {ret vec : Addr} {b : Bool}

/-! ### Waking -/

theorem State.mayWake_iff (s : State) :
    s.mayWake = true ↔ (s.cfg.wakeNeedsAccept = true → s.flag .i = false) := by
  unfold State.mayWake
  cases s.cfg.wakeNeedsAccept <;> simp

/-- What wakes a CPU that does not run: a pending source, an external one in the stop state (R326, D17). -/
theorem State.wakes_iff (h : s.run ≠ .running) :
    s.wakes = true ↔ (∃ l ∈ s.lines, l.pending = true ∧ (s.run = .stopped → l.src.external = true)) ∧
      (s.cfg.wakeNeedsAccept = true → s.flag .i = false) := by
  rw [← State.mayWake_iff, State.wakes]
  cases hrun : s.run with
  | running => exact absurd hrun h
  | waiting => simp
  | stopped => simp

/-- A CPU that runs, or has a wake event, goes on in the run state `running` (R312, R326; log 23). -/
theorem State.turn_of_awake (hnoReset : s.noReset) (h : s.run = .running ∨ s.atBoundary.wakes = true) :
    s.turn = (s.atBoundary.setRun .running).proceed := by
  obtain ⟨more, hturn⟩ := State.turn_of_noReset hnoReset
  rw [hturn, State.boundary, if_pos (by simpa using h)]

/-- Without a wake event time passes in the wait or stop state while the platform has inputs left, and then the run
ends (R326, U18). -/
theorem State.boundary_of_asleep (hrun : s.run ≠ .running) (hwakes : s.wakes = false) (more : Bool) :
    s.boundary more = if more then .done s else .stop .noWakeEvent := by
  rw [State.boundary, if_neg (by simp [hrun, hwakes])]

theorem State.turn_of_requests {ks : List Nat} {rest : List Input} (h : s.inputs = .requests ks :: rest) :
    s.turn = s.atBoundary.boundary true := by
  simp only [State.turn, State.atBoundary, h]

theorem State.turn_of_no_input (h : s.inputs = []) : s.turn = s.boundary false := by
  simp only [State.turn, h]

/-- The platform's requests come alike in every run state (R310, log 47). -/
theorem State.atBoundary_setRun (s : State) (r : RunState) : (s.setRun r).atBoundary = s.atBoundary.setRun r := by
  unfold State.atBoundary
  rw [State.setRun_inputs]
  split <;> rfl

/-- Settles O47: a CPU that wakes goes on as one that runs, and one that does not wake passes the boundary. -/
theorem sleepAndWake : Obligations.SleepAndWake := by
  intro s hrun
  have hboundary : s.atBoundary.run ≠ .running := by simpa using hrun
  refine ⟨State.wakes_iff hrun, fun ks rest hinputs hwakes => ?_, fun hinputs hwakes => ?_, fun hnoReset hwakes => ?_⟩
  · rw [step, State.turn_of_requests hinputs, State.boundary_of_asleep hboundary hwakes, if_pos rfl]
  · rw [step, State.turn_of_no_input hinputs, State.boundary_of_asleep hrun hwakes, if_neg Bool.false_ne_true]
  · have hrunning : (s.setRun .running).turn = s.turn := by
      rw [State.turn_of_awake hnoReset (.inr hwakes), State.turn_of_awake (s := s.setRun .running) hnoReset (.inl rfl),
        State.atBoundary_setRun]
      rfl
    rw [step, step, hrunning]

/-! ### Acceptance -/

/-- With I = 0 the pending source of highest priority is the one accepted (R312, R313). -/
theorem Accepts.acceptable (h : Accepts s.lines l ms) (hi : s.flag .i = false) : s.acceptable = some l := by
  obtain ⟨pre, post, hlines, hl, hpre, -⟩ := h
  rw [State.acceptable, hi, State.firstPending, hlines, List.find?_append,
    List.find?_eq_none.mpr fun k hk => by simp [hpre k hk]]
  simp [hl]

/-- `Accept(src)` for the pending source of highest priority (R311, R313). -/
theorem Accepts.acceptFirst_eq {ls : List Line} (h : Accepts ls l ms) : acceptFirst ls ls = ms := by
  obtain ⟨pre, post, rfl, hl, hpre, rfl⟩ := h
  rw [acceptFirst_split hl hpre, modify_accepted]

/-- Whether an entry can stop the model depends on S and on the product only (R82, R320). -/
theorem State.canEnter.of_keeps (h : s.canEnter vec) (hkeeps : Keeps s t) (hsp : t.sp = s.sp) : t.canEnter vec := by
  simpa only [State.canEnter, State.isRam, State.isPlain, hkeeps.kinds, State.stackAt_congr hkeeps.cfg, hsp] using h

/-- The end of the hazard of a late carry is no part of an entry (R350). -/
theorem Entered.setAfterDecimal (h : Entered s t ret vec b) (late : Bool) :
    Entered s (t.setAfterDecimal late) ret vec b := by
  obtain ⟨hsp, hhigh, hlow, hps, hflag, hi, hpc, hleaves⟩ := h
  exact ⟨hsp, hhigh, hlow, hps, hflag, hi, hpc, hleaves.setAfterDecimal late⟩

/-- An acceptance is `Accept(src)` and then the entry with B = 0; it ends the hazard of a late carry and forgets no
store (R312, R320, R350, R352). -/
theorem State.acceptInterrupt_entered (haccepts : Accepts s.lines l ms) (h : s.canEnter l.src.vector) :
    ∃ t, s.acceptInterrupt l = .ok t ∧ Entered (s.setLines ms) t s.pc l.src.vector false ∧
      t.afterDecimal = false ∧ ∀ a ∈ s.lastWrites, a ∈ t.lastWrites := by
  have hlines := haccepts.acceptFirst_eq
  have hkeeps : Keeps s (s.setLines ms) := Keeps.setLines s (hlines ▸ acceptFirst_srcs s.lines s.lines)
  obtain ⟨t, henter, hentered⟩ := State.enter_entered (h.of_keeps hkeeps rfl) false
  refine ⟨t.setAfterDecimal false, ?_, hentered.setAfterDecimal false, rfl, fun a ha => ?_⟩
  · rw [State.acceptInterrupt, hlines, Res.bind_of_ok henter]
    rfl
  · have hremembered : a ∈ t.lastWrites := State.enter_remembers henter ha
    exact hremembered

/-- A step in which an interrupt is accepted is that acceptance (R312, R326). -/
theorem step_of_acceptance (hnoReset : s.noReset) (hawake : s.run = .running ∨ s.atBoundary.wakes = true)
    (hacceptable : (s.atBoundary.setRun .running).acceptable = some l)
    (h : (s.atBoundary.setRun .running).acceptInterrupt l = .ok t) : step s = .next t := by
  simp only [step, State.turn_of_awake hnoReset hawake, State.proceed, hacceptable, h, Turn.ofRes]

/-- Settles O44: the boundary accepts the first pending source, in the run state `running`. -/
theorem interruptAcceptance : Obligations.InterruptAcceptance := by
  intro s l ms hnoReset hawake hi haccepts hcan
  have hacceptable : (s.atBoundary.setRun .running).acceptable = some l :=
    Accepts.acceptable (s := s.atBoundary.setRun .running) haccepts (by simpa using hi)
  obtain ⟨t, haccept, hentered, hlate, hwrites⟩ :=
    State.acceptInterrupt_entered (s := s.atBoundary.setRun .running) haccepts hcan
  refine ⟨t, step_of_acceptance hnoReset hawake hacceptable haccept, ?_, hlate,
    fun a ha => hwrites a (by simpa using ha)⟩
  rwa [State.setRun_pc, State.atBoundary_pc] at hentered

/-! ### Return -/

/-- A byte of plain memory that is kept on the stack reads as it was left there (R71). -/
theorem StackKept.reads {as : List Addr} {a : Addr} (hkept : StackKept t r as) (hkeeps : Keeps s t) (ha : a ∈ as)
    (hram : s.isRam a) : r.isPlain a ∧ r.peek a = t.peek a := by
  obtain ⟨-, ⟨hcfg, hsrcs⟩, hbytes⟩ := hkept
  exact ⟨.inl ((State.kindAt_congr hcfg hsrcs a).trans ((hkeeps.kinds a).trans hram)), hbytes a ha⟩

/-- An RTI that finds S and the three bytes as an entry left them pulls the flags and the return address that the entry
pushed, with S as before the entry (R273, R324). -/
theorem rti_after_entry (h : s.canEnter vec) (hentered : Entered s t ret vec b) (hkeeps : Keeps s t)
    (hkept : StackKept t r [s.stackAt s.sp, s.stackAt (s.sp - 1), s.stackAt (s.sp - 2)]) :
    ∃ u, (r.advance 1).returnFromInterrupt = .ok u ∧ u.pc = ret ∧ u.sp = s.sp ∧ u.ps = s.ps.set .b b := by
  obtain ⟨hramHigh, hramLow, hramPs, -⟩ := h
  obtain ⟨hsp, hhigh, hlow, hps, -⟩ := hentered
  obtain ⟨hplainHigh, hkeptHigh⟩ := hkept.reads hkeeps (by simp) hramHigh
  obtain ⟨hplainLow, hkeptLow⟩ := hkept.reads hkeeps (by simp) hramLow
  obtain ⟨hplainPs, hkeptPs⟩ := hkept.reads hkeeps (by simp) hramPs
  obtain ⟨hsame, ⟨hcfg, -⟩, -⟩ := hkept
  have haddr (p : Byte) : r.stackAt p = s.stackAt p := State.stackAt_congr (hcfg.trans hkeeps.cfg) p
  have hback : r.sp + 3 = s.sp := by rw [hsame, hsp, BitVec.sub_add_cancel]
  have hback' : r.sp + 2 = s.sp - 1 := by rw [← hback]; bv_omega
  have hback'' : r.sp + 1 = s.sp - 2 := by rw [← hback]; bv_omega
  rw [← haddr, ← hback] at hplainHigh
  rw [← haddr, ← hback'] at hplainLow
  rw [← haddr, ← hback''] at hplainPs
  refine ⟨_, State.returnFromInterrupt_of_plain (s := r.advance 1) hplainPs hplainLow hplainHigh, ?_, hback, ?_⟩
  · show joinBytes (r.peek (r.stackAt (r.sp + 3))) (r.peek (r.stackAt (r.sp + 2))) = ret
    rw [hback, hback', haddr, haddr, hkeptHigh, hkeptLow, hhigh, hlow, joinBytes_high_low]
  · show Status.ofByte (r.peek (r.stackAt (r.sp + 1))) = s.ps.set .b b
    rw [hback'', haddr, hkeptPs, hps, Status.ofByte_toByte]

/-- Settles O45: RTI pulls what the entry pushed, and S is back where it was. -/
theorem returnUndoesEntry : Obligations.ReturnUndoesEntry := by
  intro s t r vec b hcan henter hkept
  obtain ⟨t', henter', hentered⟩ := State.enter_entered hcan b
  cases henter.symm.trans henter'
  obtain ⟨u, hrti, hpc, hsp, hps⟩ := rti_after_entry hcan hentered (State.enter_keeps henter) hkept
  exact ⟨u, finish_next.mpr hrti, hpc, hsp, hps, (rti_changes hrti).leaves⟩

end Sys2Proof.Machine
end

section
/-!
PROOFS. The reset at a boundary: the bits it gives each source, its flags and the PC it loads (R340, R341).
-/

namespace Sys2Proof.Machine

/-! ### The sources -/

/-- A source after a reset, from the request and enable bit that the platform gives it, if any (R341, log 14). -/
def Line.afterReset (l : Line) : Option (Bool × Bool) → Line
  | some (r, e) => { l with request := r, enable := e }
  | none => l

/-- The source at each place takes the bits at the same place (R341). -/
theorem resetLines_getElem? (ls : List Line) (bits : List (Bool × Bool)) (k : Nat) :
    (resetLines ls bits)[k]? = ls[k]?.map fun l => l.afterReset bits[k]? := by
  induction ls generalizing bits k with
  | nil => rfl
  | cons l ls ih =>
    cases bits with
    | nil => simp [resetLines, Line.afterReset]
    | cons b bits =>
      cases k with
      | zero => rfl
      | succ k => simpa [resetLines] using ih bits k

/-! ### Flags and PC -/

/-- I is 1 after a reset, and every other flag is the platform's (R340, R341). -/
theorem State.takeReset_flag (s : State) (v : ResetValues) (f : Flag) :
    (s.takeReset v).flag f = if f = .i then true else bitOf v.ps f.pos := by
  simp only [State.flag, State.takeReset, Status.get_set, Status.get_ofByte]

/-- Where both bytes of the reset vector's entry are listed, PC is the address they hold (R340, D2). -/
theorem resetTarget_of_listed {c : Config} {m : Memory} {lo hi : Byte}
    (hlo : Memory.get m c.resetVector.toNat = some lo)
    (hhi : Memory.get m (c.resetVector + 1).toNat = some hi) : resetTarget c m = joinBytes hi lo := by
  simp only [resetTarget, hlo, hhi]

/-- Settles O48: the step is the reset, which takes each register, flag, byte and source as the lemmas above say. -/
theorem resetEvent : Obligations.ResetEvent := by
  intro s v rest hinputs
  have hlines (k : Nat) (l : Line) (hl : s.lines[k]? = some l) :
      (resetLines s.lines v.bits)[k]? = some (l.afterReset v.bits[k]?) := by
    rw [resetLines_getElem?, hl, Option.map_some]
  refine ⟨_, step_of_reset hinputs, ?_, rfl, rfl, rfl, rfl, rfl, fun f hf => ?_, rfl,
    ⟨rfl, resetLines_srcs _ _⟩, hlines, Memory.wf_ofCells _, fun _ => rfl, fun _ _ => resetTarget_of_listed⟩
  · rw [State.takeReset_flag, if_pos rfl]
  · rw [State.takeReset_flag, if_neg hf]

end Sys2Proof.Machine
end
